-- ==== Sys2Proof/Word.lean ====
section
/-! DEFINITION. The widths of the core (rules R6, R10, R14, R55): the words, bytes and bit tuples the spec treats as bits. -/

namespace Sys2Proof

/-- A 32-bit value: a Register's state, a tap mask, the accumulator, a seed, `imm32`, `DOUT` (R6, R14 a). -/
abbrev Word := BitVec 32

/-- A passphrase, data or keystream byte (R6). -/
abbrev Byte := BitVec 8

/-- Eleven bits, bit `i` belonging to Register `i`: the fresh bits, `imm11`, the valid bits `V` (R20, R43, R59). -/
abbrev Bits11 := BitVec 11

/-- A 4-bit field: `op`, `idx`, `FAULT`, `STATUS` (R30, R55, R57). -/
abbrev Nibble := BitVec 4

/-- A command word (R55). -/
abbrev CmdWord := BitVec 40

/-- The number of Registers, `NREG` (R6). -/
abbrev NREG : Nat := 11

/-- The number of a Register, 0..10 (R21, R59). -/
abbrev RegIdx := Fin NREG

/-- The eleven 32-bit states of a bank in which every Register holds a value (R120). -/
abbrev Bank := Vector Word NREG

end Sys2Proof
end

