-- ==== Sys2Proof/Syntax.lean ====
section
/-! DEFINITION. The ten commands of KSCORE-1 (rules R56, R58; opcode_table.json): one constructor per row. -/

namespace Sys2Proof

/-- A command (R58). Operands have the widths of their fields in the command word (R55, R59); `Instr.wf` says which
register indexes are legal (R56). -/
inductive Instr where
  /-- `RST`: return to the reset state (R160). -/
  | rst
  /-- `KINIT`: start the accumulator (R106). -/
  | kinit
  /-- `KABS imm8`: absorb one passphrase byte (R107). -/
  | kabs (imm8 : Byte)
  /-- `KSEED`: finish the key schedule and construct the bank (R108). -/
  | kseed
  /-- `LDS idx, imm32`: construct one Register with an explicit seed (R86). -/
  | lds (idx : Nibble) (imm32 : Word)
  /-- `RDS idx`: read one Register (R87). -/
  | rds (idx : Nibble)
  /-- `CLK`: one bank clock (R122). -/
  | clk
  /-- `NEXTB`: produce one keystream byte (R142). -/
  | nextb
  /-- `XORB imm8`: transform one data byte (R150). -/
  | xorb (imm8 : Byte)
  /-- `COMB imm11`: evaluate the Combiner alone (R133). -/
  | comb (imm11 : Bits11)
deriving DecidableEq, Repr

/-- The five command formats (R56); they differ only in which bits of `idx` and `imm` may be nonzero. -/
inductive Format where
  /-- No operand. -/
  | Z
  /-- A byte in `imm[7:0]`. -/
  | B
  /-- A register in `idx`. -/
  | R
  /-- A register in `idx` and a word in `imm`. -/
  | RI
  /-- Eleven bits in `imm[10:0]`. -/
  | T
deriving DecidableEq, Repr

/-- The format of each command (R56, R58). -/
def Instr.format : Instr → Format
  | .rst => .Z
  | .kinit => .Z
  | .kabs _ => .B
  | .kseed => .Z
  | .lds _ _ => .RI
  | .rds _ => .R
  | .clk => .Z
  | .nextb => .Z
  | .xorb _ => .B
  | .comb _ => .T

/-- The mnemonic of each command (R58, R64). -/
def Instr.mnemonic : Instr → String
  | .rst => "RST"
  | .kinit => "KINIT"
  | .kabs _ => "KABS"
  | .kseed => "KSEED"
  | .lds _ _ => "LDS"
  | .rds _ => "RDS"
  | .clk => "CLK"
  | .nextb => "NEXTB"
  | .xorb _ => "XORB"
  | .comb _ => "COMB"

end Sys2Proof
end

