-- ==== Sys2Proof/WellFormed.lean ====
section
/-! DEFINITION. Which terms of `Instr` are commands of the spec: the register index of `LDS` and `RDS` is 0..10 (rules R56, R61 b). -/

namespace Sys2Proof

/-- A legal register index: 0..10 (R40, R56). -/
def legalIdx (idx : Nibble) : Bool := idx.toNat < NREG

/-- A well-formed command. Every operand but a register index may have any value of its width (R56, R59); `LDS idx, 0` is
well-formed (R62). -/
def Instr.wf : Instr → Bool
  | .rst => true
  | .kinit => true
  | .kabs _ => true
  | .kseed => true
  | .lds idx _ => legalIdx idx
  | .rds idx => legalIdx idx
  | .clk => true
  | .nextb => true
  | .xorb _ => true
  | .comb _ => true

end Sys2Proof
end

