-- ==== Sys2Proof/Decode.lean ====
section
/-! DEFINITION. The command word (rules R55, R56, R58, R60, R61): its fields, the opcode table, the total decoder with a name
for every rejected word, and the encoder. -/

namespace Sys2Proof

/-- Why a word is `Illegal`, the four cases of R61. All of them raise the one fault `ILLEGAL` (log 8). -/
inductive DecodeError where
  /-- R61 (a): `op` is 0x0 or 0xB..0xF. -/
  | reservedOpcode
  /-- R61 (b): `idx` is 11..15 in format R or RI. -/
  | idxOutOfRange
  /-- R61 (c): `idx` is not 0 in format Z, B or T. -/
  | idxNotZero
  /-- R61 (d): a bit of `imm` that the format says must be 0 is set. -/
  | immNotZero
deriving DecidableEq, Repr

/-- `op = w[39:36]` (R55). -/
def opOf (w : CmdWord) : Nibble := w.extractLsb' 36 4

/-- `idx = w[35:32]` (R55). -/
def idxOf (w : CmdWord) : Nibble := w.extractLsb' 32 4

/-- `imm = w[31:0]` (R55); used whole it is `imm32` (R59). -/
def immOf (w : CmdWord) : Word := w.extractLsb' 0 32

/-- `imm8 = imm[7:0]` (R59). -/
def imm8Of (w : CmdWord) : Byte := (immOf w).extractLsb' 0 8

/-- `imm11 = imm[10:0]` (R59). -/
def imm11Of (w : CmdWord) : Bits11 := (immOf w).extractLsb' 0 11

/-- The first must-be condition of a format that a word breaks, `idx` before `imm` (R56, R61; the order is log 8). -/
def formatError (f : Format) (w : CmdWord) : Option DecodeError :=
  match f with
  | .Z => if idxOf w ≠ 0#4 then some .idxNotZero else if immOf w ≠ 0#32 then some .immNotZero else none
  | .B => if idxOf w ≠ 0#4 then some .idxNotZero
      else if (immOf w).extractLsb' 8 24 ≠ 0#24 then some .immNotZero else none
  | .R => if legalIdx (idxOf w) = false then some .idxOutOfRange
      else if immOf w ≠ 0#32 then some .immNotZero else none
  | .RI => if legalIdx (idxOf w) = false then some .idxOutOfRange else none
  | .T => if idxOf w ≠ 0#4 then some .idxNotZero
      else if (immOf w).extractLsb' 11 21 ≠ 0#21 then some .immNotZero else none

/-- The command `i`, if the word keeps the format of `i`. -/
def checkedAs (i : Instr) (w : CmdWord) : Except DecodeError Instr :=
  match formatError i.format w with
  | none => .ok i
  | some e => .error e

/-- The decoder of R60, total on the 40-bit words. -/
def decode (w : CmdWord) : Except DecodeError Instr :=
  match (opOf w).toNat with
  | 0x1 => checkedAs .rst w
  | 0x2 => checkedAs .kinit w
  | 0x3 => checkedAs (.kabs (imm8Of w)) w
  | 0x4 => checkedAs .kseed w
  | 0x5 => checkedAs (.lds (idxOf w) (immOf w)) w
  | 0x6 => checkedAs (.rds (idxOf w)) w
  | 0x7 => checkedAs .clk w
  | 0x8 => checkedAs .nextb w
  | 0x9 => checkedAs (.xorb (imm8Of w)) w
  | 0xA => checkedAs (.comb (imm11Of w)) w
  | _ => .error .reservedOpcode

/-- A word from its three fields (R55): digit 1 is `op`, digit 2 is `idx`, digits 3 to 10 are `imm`. -/
def mkWord (op idx : Nibble) (imm : Word) : CmdWord := op ++ idx ++ imm

/-- The word of a command (R58's fixed patterns). An ill-formed `LDS` or `RDS` gets the word its fields spell, which `decode`
rejects. -/
def encode : Instr → CmdWord
  | .rst => mkWord 0x1#4 0#4 0#32
  | .kinit => mkWord 0x2#4 0#4 0#32
  | .kabs b => mkWord 0x3#4 0#4 (b.setWidth 32)
  | .kseed => mkWord 0x4#4 0#4 0#32
  | .lds idx v => mkWord 0x5#4 idx v
  | .rds idx => mkWord 0x6#4 idx 0#32
  | .clk => mkWord 0x7#4 0#4 0#32
  | .nextb => mkWord 0x8#4 0#4 0#32
  | .xorb b => mkWord 0x9#4 0#4 (b.setWidth 32)
  | .comb t => mkWord 0xA#4 0#4 (t.setWidth 32)

/-- One row of opcode_table.json (R58): `w` is the command exactly when `w AND mask = pattern` and, in formats R and RI,
`idx <= 10`. -/
structure OpcodeRow where
  mnemonic : String
  format : Format
  pattern : CmdWord
  mask : CmdWord
deriving DecidableEq, Repr

/-- opcode_table.json, row by row (R58). -/
def opcodeTable : List OpcodeRow :=
  [ ⟨"RST", .Z, 0x1000000000#40, 0xFFFFFFFFFF#40⟩,
    ⟨"KINIT", .Z, 0x2000000000#40, 0xFFFFFFFFFF#40⟩,
    ⟨"KABS", .B, 0x3000000000#40, 0xFFFFFFFF00#40⟩,
    ⟨"KSEED", .Z, 0x4000000000#40, 0xFFFFFFFFFF#40⟩,
    ⟨"LDS", .RI, 0x5000000000#40, 0xF000000000#40⟩,
    ⟨"RDS", .R, 0x6000000000#40, 0xF0FFFFFFFF#40⟩,
    ⟨"CLK", .Z, 0x7000000000#40, 0xFFFFFFFFFF#40⟩,
    ⟨"NEXTB", .Z, 0x8000000000#40, 0xFFFFFFFFFF#40⟩,
    ⟨"XORB", .B, 0x9000000000#40, 0xFFFFFFFF00#40⟩,
    ⟨"COMB", .T, 0xA000000000#40, 0xFFFFFFF800#40⟩ ]

/-- Whether a word is an instance of a row (R58). -/
def OpcodeRow.accepts (r : OpcodeRow) (w : CmdWord) : Bool :=
  (w &&& r.mask == r.pattern) &&
    match r.format with
    | .R => legalIdx (idxOf w)
    | .RI => legalIdx (idxOf w)
    | .Z => true
    | .B => true
    | .T => true

/-- The command word whose low `nbits` bits are those of `w`: the table numbers a row's bits as one 40-bit number, bit 0 the
least significant (R10, R55; log 14). -/
def tableWord (nbits w : Nat) : CmdWord := BitVec.ofNat 40 (w % 2 ^ nbits)

/-- What the decoder reads from a word numbered as opcode_table.json numbers it. -/
def decodeTableWord (nbits w : Nat) : Option Instr :=
  match decode (tableWord nbits w) with
  | .ok i => some i
  | .error _ => none

end Sys2Proof
end

