-- ==== Sys2Proof/Config.lean ====
section
/-! DEFINITION. The configuration `Cfg` of a core (rules R7, R8, R9): the constants the spec leaves OPEN, when they are
well-formed, the reference configuration, and the core's own configuration as an opaque constant (log 1). -/

namespace Sys2Proof

/-- The hard-wired constants of a core (R7). No command reads them as data or writes them. -/
structure Cfg where
  /-- `MASK[i]`, the tap mask wired to Register `i` (R7, R23). -/
  mask : Vector Word NREG
  /-- `SALT`, where the key schedule's accumulator starts (R7, R101). -/
  salt : Word
  /-- `C`, the key schedule's constant (R7, R102). -/
  c : Word
  /-- `REJECT_EMPTY`: whether `KSEED` refuses an empty passphrase (R7, R108). -/
  rejectEmpty : Bool
deriving DecidableEq, Repr, Inhabited

/-- `K[i] = (i * C) mod 2^32` (R7, R14 b). -/
def Cfg.K (cfg : Cfg) (i : RegIdx) : Word := BitVec.ofNat 32 i.val * cfg.c

/-- R8 item 1: no mask is zero. -/
abbrev Cfg.masksNonzero (cfg : Cfg) : Prop := ∀ i : RegIdx, cfg.mask[i] ≠ 0#32

/-- R8 item 2: the masks are pairwise different. -/
abbrev Cfg.masksDistinct (cfg : Cfg) : Prop := ∀ i j : RegIdx, i ≠ j → cfg.mask[i] ≠ cfg.mask[j]

/-- R8 item 3: bit 31 of every mask is set. -/
abbrev Cfg.masksTopBit (cfg : Cfg) : Prop := ∀ i : RegIdx, cfg.mask[i].getLsbD 31 = true

/-- R8 item 4: the salt is not zero. -/
abbrev Cfg.saltNonzero (cfg : Cfg) : Prop := cfg.salt ≠ 0#32

/-- R8 item 5: `C mod 2^29` is not zero. -/
abbrev Cfg.cNotMultiple (cfg : Cfg) : Prop := cfg.c.toNat % 2 ^ 29 ≠ 0

/-- R8 item 6: `K[i] XOR K[j]` is neither 0 nor 1 for different `i` and `j`. -/
abbrev Cfg.ksApart (cfg : Cfg) : Prop :=
  ∀ i j : RegIdx, i ≠ j → cfg.K i ^^^ cfg.K j ≠ 0#32 ∧ cfg.K i ^^^ cfg.K j ≠ 1#32

/-- `wf(Cfg)`, the six items of R8 in their order. The model is defined for well-formed configurations only. -/
abbrev Cfg.wf (cfg : Cfg) : Prop :=
  cfg.masksNonzero ∧ cfg.masksDistinct ∧ cfg.masksTopBit ∧ cfg.saltNonzero ∧ cfg.cNotMultiple ∧ cfg.ksApart

/-- The reference configuration `CFG_REF` (R9), the spec's own and not the repository's. It is used by the numeric examples
only; the core's configuration is `Config.core`. -/
def Cfg.ref : Cfg where
  mask := #v[0x80000057#32, 0x80000062#32, 0x8000007A#32, 0x80000092#32, 0x800000B9#32, 0x800000BA#32,
    0x80000106#32, 0x80000114#32, 0x8000012D#32, 0x8000014E#32, 0x8000016C#32]
  salt := 0x811C9DC5#32
  c := 0x9E3779B9#32
  rejectEmpty := false

/-- A well-formed configuration. An ill-formed one is refused when a core is instantiated (R8, R177): it has no value of
this type, so it has no meaning and no run-time fault. The default values only show that the type has a value (R9). -/
structure WfCfg where
  cfg : Cfg := Cfg.ref
  wf : cfg.wf := by decide
deriving DecidableEq, Inhabited

/-- The configuration of the core: a FREE VALUE of the model (log 1). The sources print none of its constants (R7, U1 to U4), so
nothing is known of it but that it is well-formed: a statement proved about it holds for every well-formed `Cfg`. -/
opaque Config.core : WfCfg

end Sys2Proof
end

