-- ==== Sys2Proof/Machine/State.lean ====
section
/-! DEFINITION. The architectural state of the core (rules R20 to R36), the host's side of it (R57, R206), the fault causes
(R171), and the state after reset (R36, R200, R201). -/

namespace Sys2Proof.Machine

/-- The five fault causes of R171; codes 6..15 have no constructor (V3). A fault of the spec is not a stop: raising one is
a next state whose `FAULT` holds its code (R174, R178; log 2), so no step answers `Host.Outcome.fault`. Safe. -/
inductive Fault where
  /-- Code 1: raised by a command word that does not decode (R61, R172). A next state, never a stop. Safe. -/
  | illegal
  /-- Code 2: raised by `KABS` and `KSEED` when the accumulator holds no value (R172). A next state, never a stop. Safe. -/
  | noacc
  /-- Code 3: raised by `RDS`, `CLK`, `NEXTB`, `XORB` when a Register they need holds no value (R172). A next state, never a
  stop. Safe. -/
  | unkeyed
  /-- Code 4: raised by `LDS` with the seed 0 (R172). A next state, never a stop. Safe. -/
  | zeroseed
  /-- Code 5: raised by `KSEED` with no byte absorbed when `REJECT_EMPTY` is true (R172). A next state, never a stop. Safe. -/
  | emptykey
deriving DecidableEq, Repr

/-- Why a step could have no meaning. No step of this model answers one. -/
inductive Refusal where
  /-- Answered by an arm of `exec` whose command has no meaning yet; no arm does. Safe. -/
  | notModelled (mnemonic : String)
deriving DecidableEq, Repr

/-- The response to a command: 36 bits in two fields (R57). -/
structure Response where
  /-- `STATUS`: 0, or the fault code. -/
  status : Nibble
  /-- `DOUT`. -/
  dout : Word
deriving DecidableEq, Repr

/-- What the host may do between commands (R206). -/
inductive HostMove where
  /-- Issue a 40-bit word as a command. -/
  | issue (w : CmdWord)
  /-- Assert the reset input (R200). -/
  | reset
  /-- Wait (R13, R192). -/
  | wait
deriving DecidableEq, Repr

/-- The state of one core (R20), and beside it the command port's two sides, which the spec's step function has as its
input and its output (R46): the host's moves to come and the last response (logs 3 and 4). -/
structure State where
  /-- `S[0]` .. `S[10]`; `none` when the Register holds no value (R20, R21; log 5). -/
  S : Vector (Option Word) NREG
  /-- `ACC`; `none` when it holds no value (R20, R29; log 5). -/
  acc : Option Word
  /-- `ACCN`: a byte was absorbed since the last `KINIT` (R20, R28). -/
  accn : Bool
  /-- `FAULT`: the first fault since reset, if any (R20, R30). -/
  fault : Option Fault
  /-- The response of the last command; the model's own field (log 3). -/
  rsp : Option Response
  /-- The host's moves to come, next first; the model's own field (log 4). -/
  host : List HostMove
deriving DecidableEq, Repr

/-- The state after reset (R36, R200, R201): no Register and no accumulator holds a value, `ACCN = 0`, `FAULT = 0`. There is
no response yet and the host has made no move (logs 3 and 4). -/
def State.reset : State where
  S := Vector.replicate NREG none
  acc := none
  accn := false
  fault := none
  rsp := none
  host := []

end Sys2Proof.Machine
end

