-- ==== Sys2Proof/Machine/Flags.lean ====
section
/-! DEFINITION. The status bits and the fault register as the host would see them (rules R20, R28, R30, R171): `V`, `ACCV`, `ACCN`,
`FAULT`, and the conditions the commands check on them (R172). The core has no condition codes (R28). -/

namespace Sys2Proof.Machine

/-- The code of a fault cause, as stored in `FAULT` and returned in `STATUS` (R171). -/
def Fault.code : Fault → Nibble
  | .illegal => 1#4
  | .noacc => 2#4
  | .unkeyed => 3#4
  | .zeroseed => 4#4
  | .emptykey => 5#4

/-- `V`, eleven valid bits: `V[i] = 1` exactly when `S[i]` holds a value (R21, R28). -/
def State.V (s : State) : Bits11 := BitVec.ofFnLE fun i : RegIdx => s.S[i].isSome

/-- `ACCV`: 1 exactly when `ACC` holds a value (R28, R29). -/
def State.ACCV (s : State) : Bool := s.acc.isSome

/-- `ACCN` (R28). -/
def State.ACCN (s : State) : Bool := s.accn

/-- `FAULT`, 4 bits: 0 when no fault has been raised since reset, else the code of the first (R30). -/
def State.FAULT (s : State) : Nibble :=
  match s.fault with
  | none => 0#4
  | some f => f.code

/-- Halted: `FAULT != 0` (R175). -/
def State.halted (s : State) : Bool := s.fault.isSome

/-- Keyed: every Register holds a value, `V = 0x7FF` (R15, R202). -/
abbrev State.keyed (s : State) : Prop := ∀ i : RegIdx, s.S[i].isSome = true

end Sys2Proof.Machine
end

