-- ==== Sys2Proof/Machine/Ops.lean ====
section
/-! DEFINITION. The named operations the meanings are made of: reading and writing Registers and the accumulator (R12, R22, R29),
responding (R57), raising a fault and leaving the halted state (R174 to R176), suppression (R175), and the host's moves (R206). -/

namespace Sys2Proof.Machine

/-- The configuration the core is built with (R7): the free value of Config.lean (log 1). -/
def coreCfg : Cfg := Config.core.cfg

/-- Read of `S[i]` (R12, R21). -/
def State.readReg (s : State) (i : RegIdx) : Option Word := s.S[i]

/-- `S[i] <- v`, which also sets `V[i]` (R12, R86). -/
def State.writeReg (s : State) (i : RegIdx) (v : Word) : State := { s with S := s.S.set i.val (some v) i.isLt }

/-- The eleven states `(S[0], ..., S[10])`, when every Register holds a value (R122). -/
def State.bank (s : State) : Option Bank :=
  if h : s.keyed then some (Vector.ofFn fun i => s.S[i].get (h i)) else none

/-- `for i in 0..10: S[i] <- B[i]`, which also sets `V <- 0x7FF` (R108, R122). -/
def State.writeBank (s : State) (B : Bank) : State := { s with S := Vector.ofFn fun i => some B[i] }

/-- `ACC <- v`, which also sets `ACCV <- 1` (R12, R106). -/
def State.writeAcc (s : State) (v : Word) : State := { s with acc := some v }

/-- `ACCV <- 0`: `ACC` holds no value any more (R29, R108). -/
def State.clearAcc (s : State) : State := { s with acc := none }

/-- `ACCN <- b` (R106 to R108). -/
def State.writeAccn (s : State) (b : Bool) : State := { s with accn := b }

/-- `respond(d)`: the command finishes without fault, `STATUS = 0`, `DOUT = d` (R12, R57). -/
def State.respond (s : State) (d : Word) : State := { s with rsp := some ⟨0#4, d⟩ }

/-- `raise X`, taking a fault (R174): `FAULT <- code(X)`, no other architectural state changes, and the response is
`STATUS = code(X)`, `DOUT = 0`. There is no handler to go to and no state to save. -/
def State.raise (s : State) (f : Fault) : State := { s with fault := some f, rsp := some ⟨f.code, 0#32⟩ }

/-- Leaving the halted state, by `RST` or by the reset input (R160, R176, R200): every piece of architectural state takes its
value after reset (R36). The moves the host has still to make are the host's, not the core's. -/
def State.restart (s : State) : State := { State.reset with host := s.host }

/-- A suppressed command: it changes nothing and is answered with `STATUS = FAULT`, `DOUT = 0` (R173 step 2, R175). -/
def State.suppress (s : State) : State := { s with rsp := some ⟨s.FAULT, 0#32⟩ }

/-- A command on a core that may be halted: suppressed when it is, else performed (R173 step 2, R175). -/
def State.unlessHalted (s : State) (perform : State → State) : State :=
  if s.halted then s.suppress else perform s

/-- A command that needs every Register: `UNKEYED` unless `V = 0x7FF` (R122, R142, R150). -/
def State.withBank (s : State) (perform : Bank → State) : State :=
  match s.bank with
  | none => s.raise .unkeyed
  | some B => perform B

/-- The host's next move and the state without it, or nothing when the host has no move to make (R206; log 4). -/
def State.takeMove (s : State) : Option (HostMove × State) :=
  match s.host with
  | [] => none
  | m :: later => some (m, { s with host := later })

/-- The host decides to issue a word next, before the moves it had planned (R206; log 4). -/
def State.issueNext (s : State) (w : CmdWord) : State := { s with host := .issue w :: s.host }

end Sys2Proof.Machine
end

