-- ==== Sys2Proof/Machine/Operands.lean ====
section
/-! DEFINITION. Operand assembly and the packing of results (rules R10, R57, R59): nothing is scaled, shifted or sign-extended. -/

namespace Sys2Proof.Machine

/-- The Register a 4-bit `idx` names: 0..10; 11..15 name none (R40, R59, R61 b). -/
def regIdx (idx : Nibble) : Option RegIdx :=
  if h : idx.toNat < NREG then some ⟨idx.toNat, h⟩ else none

/-- A byte entering 32-bit arithmetic or leaving in `DOUT[7:0]`: `zext_32` (R14 e, R59). -/
def zextByte (b : Byte) : Word := b.setWidth 32

/-- A bit in `DOUT[0]`: `zext_32` (R133). -/
def zextBit (b : Bool) : Word := (BitVec.ofBool b).setWidth 32

/-- The response of `CLK`: `{0 (20 bits), z, bits}` (R57, R122). -/
def packClock (z : Bool) (bits : Bits11) : Word := (BitVec.ofBool z ++ bits).setWidth 32

/-- A command that addresses one Register: an `idx` of 11..15 is `ILLEGAL` (R61 b; log 7). -/
def State.withReg (s : State) (idx : Nibble) (perform : RegIdx → State) : State :=
  match regIdx idx with
  | none => s.raise .illegal
  | some i => perform i

end Sys2Proof.Machine
end

