-- ==== Sys2Proof/Machine/Combiner.lean ====
section
/-! DEFINITION. The Nonlinear Combiner (43_combiner.md, rules R130 to R133) and the command `COMB`. -/

namespace Sys2Proof.Machine

/-- `select(control, a, b) = (control AND a) XOR ((NOT control) AND b)`, the Geffe selector (R130). -/
def select (control a b : Bool) : Bool := (control && a) ^^ (!control && b)

/-- `combine(bits)`: one keystream bit from the eleven fresh bits (R131). -/
def combine (bits : Bits11) : Bool :=
  select (bits.getLsbD 0) (bits.getLsbD 1) (bits.getLsbD 2)
    ^^ select (bits.getLsbD 3) (bits.getLsbD 4) (bits.getLsbD 5)
    ^^ select (bits.getLsbD 6) (bits.getLsbD 7) (bits.getLsbD 8)
    ^^ bits.getLsbD 9 ^^ bits.getLsbD 10

/-- `COMB imm11` on a running core (R133). -/
def comb (imm11 : Bits11) (s : State) : State := s.respond (zextBit (combine imm11))

/-- The meaning of `COMB imm11` (R133, R173). -/
def execComb (imm11 : Bits11) (s : State) : Host.Outcome State Fault Refusal :=
  .next (s.unlessHalted (comb imm11))

end Sys2Proof.Machine
end

