-- ==== Sys2Proof/Machine/Register.lean ====
section
/-! DEFINITION. The Register, one LFSR cell (40_register.md, rules R80 to R87), and the commands `LDS` and `RDS`. -/

namespace Sys2Proof.Machine

/-- `lfsr_step(mask, s)`: the new state and the bit shifted out (R80). The algorithm, not the label "Fibonacci", is
normative (R82, C1). -/
def lfsrStep (mask s : Word) : Word × Bool :=
  let out := s.getLsbD 0
  let t := s >>> 1
  (if out then t ^^^ mask else t, out)

/-- `lfsr_unstep(mask, s')`: the state before a step, for a mask with bit 31 set (R84 b). No command performs it. -/
def lfsrUnstep (mask s' : Word) : Word :=
  if s'.getLsbD 31 then ((s' ^^^ mask) <<< 1) ||| 1#32 else s' <<< 1

/-- `LDS idx, imm32` on a running core (R86). -/
def lds (idx : Nibble) (imm32 : Word) (s : State) : State :=
  s.withReg idx fun i =>
    if imm32 = 0#32 then s.raise .zeroseed else (s.writeReg i imm32).respond 0#32

/-- `RDS idx` on a running core (R87). -/
def rds (idx : Nibble) (s : State) : State :=
  s.withReg idx fun i =>
    match s.readReg i with
    | none => s.raise .unkeyed
    | some v => s.respond v

/-- The meaning of `LDS idx, imm32` (R86, R173). -/
def execLds (idx : Nibble) (imm32 : Word) (s : State) : Host.Outcome State Fault Refusal :=
  .next (s.unlessHalted (lds idx imm32))

/-- The meaning of `RDS idx` (R87, R173). -/
def execRds (idx : Nibble) (s : State) : Host.Outcome State Fault Refusal :=
  .next (s.unlessHalted (rds idx))

end Sys2Proof.Machine
end

