-- ==== Sys2Proof/Machine/Bank.lean ====
section
/-! DEFINITION. The Generator Bank (42_bank.md, rules R120 to R123) and the command `CLK`. -/

namespace Sys2Proof.Machine

/-- `step_all(B)`: every Register steps once, under its own mask; fresh bit `i` is Register `i`'s (R120, R121). The steps are
independent, so no order among them is modelled (R47, C6). -/
def stepAll (cfg : Cfg) (B : Bank) : Bank × Bits11 :=
  (Vector.ofFn fun i => (lfsrStep cfg.mask[i] B[i]).1,
   BitVec.ofFnLE fun i : RegIdx => (lfsrStep cfg.mask[i] B[i]).2)

/-- The bank `n` clocks after `B` (R120, R141). -/
def bankAfter (cfg : Cfg) (B : Bank) : Nat → Bank
  | 0 => B
  | n + 1 => (stepAll cfg (bankAfter cfg B n)).1

/-- The keystream bit of clock `n`, counted from 0 at `B` (R122, R140, R141). -/
def keyBit (cfg : Cfg) (B : Bank) (n : Nat) : Bool := combine (stepAll cfg (bankAfter cfg B n)).2

/-- `CLK` on a running core (R122). -/
def clk (cfg : Cfg) (s : State) : State :=
  s.withBank fun B =>
    let (B', bits) := stepAll cfg B
    (s.writeBank B').respond (packClock (combine bits) bits)

/-- The meaning of `CLK` (R122, R173). -/
def execClk (s : State) : Host.Outcome State Fault Refusal :=
  .next (s.unlessHalted (clk coreCfg))

end Sys2Proof.Machine
end

