-- ==== Sys2Proof/Machine/Assembler.lean ====
section
/-! DEFINITION. The Keystream Byte Assembler (44_assembler.md, rules R140 to R143) and the command `NEXTB`. The partial byte lives
inside one command only (R33). -/

namespace Sys2Proof.Machine

/-- `n` more clocks of the Assembler's loop: the bank and the bits gathered so far, each new bit entering at bit 0 (R140). -/
def assemble (cfg : Cfg) : Nat → Bank → Byte → Bank × Byte
  | 0, B, byte => (B, byte)
  | n + 1, B, byte =>
    let (B', bits) := stepAll cfg B
    assemble cfg n B' ((byte <<< 1) ||| (BitVec.ofBool (combine bits)).setWidth 8)

/-- `next_byte(B)`: the bank eight clocks later and one byte, first bit to bit 7 (R140). -/
def nextByte (cfg : Cfg) (B : Bank) : Bank × Byte := assemble cfg 8 B 0#8

/-- Keystream byte `k` of the stream that starts at the bank `B`, counted from 0 (R141). -/
def keyByte (cfg : Cfg) (B : Bank) : Nat → Byte
  | 0 => (nextByte cfg B).2
  | k + 1 => keyByte cfg (nextByte cfg B).1 k

/-- `NEXTB` on a running core (R142). -/
def nextb (cfg : Cfg) (s : State) : State :=
  s.withBank fun B =>
    let (B', byte) := nextByte cfg B
    (s.writeBank B').respond (zextByte byte)

/-- The meaning of `NEXTB` (R142, R173). -/
def execNextb (s : State) : Host.Outcome State Fault Refusal :=
  .next (s.unlessHalted (nextb coreCfg))

end Sys2Proof.Machine
end

