-- ==== Sys2Proof/Machine/KeySchedule.lean ====
section
/-! DEFINITION. The Key Schedule (41_key_schedule.md, rules R100 to R109) and the commands `KINIT`, `KABS` and `KSEED`. -/

namespace Sys2Proof.Machine

/-- `absorb(acc, b)` folds one passphrase byte into the accumulator (R100). -/
def absorb (acc : Word) (b : Byte) : Word := (acc <<< 5) ^^^ acc ^^^ zextByte b

/-- `acc_of(p)`: the accumulator after the whole passphrase, first byte first (R101). -/
def accOf (cfg : Cfg) (p : List Byte) : Word := p.foldl absorb cfg.salt

/-- `seed(acc, i)`: the seed of Register `i`; a zero is replaced by 1 (R102) and a collision is never repaired (R105, C3). -/
def seed (cfg : Cfg) (acc : Word) (i : RegIdx) : Word :=
  let v := acc ^^^ cfg.K i
  if v = 0#32 then 1#32 else v

/-- The eleven seeds, all from one accumulator (R108). -/
def seedBank (cfg : Cfg) (acc : Word) : Bank := Vector.ofFn (seed cfg acc)

/-- `KINIT` on a running core (R106). -/
def kinit (cfg : Cfg) (s : State) : State :=
  ((s.writeAcc cfg.salt).writeAccn false).respond 0#32

/-- `KABS imm8` on a running core (R107). -/
def kabs (imm8 : Byte) (s : State) : State :=
  match s.acc with
  | none => s.raise .noacc
  | some a => ((s.writeAcc (absorb a imm8)).writeAccn true).respond 0#32

/-- `KSEED` on a running core (R108). -/
def kseed (cfg : Cfg) (s : State) : State :=
  match s.acc with
  | none => s.raise .noacc
  | some a =>
    if cfg.rejectEmpty && !s.accn then s.raise .emptykey
    else (((s.writeBank (seedBank cfg a)).clearAcc).writeAccn false).respond 0#32

/-- The meaning of `KINIT` (R106, R173). -/
def execKinit (s : State) : Host.Outcome State Fault Refusal :=
  .next (s.unlessHalted (kinit coreCfg))

/-- The meaning of `KABS imm8` (R107, R173). -/
def execKabs (imm8 : Byte) (s : State) : Host.Outcome State Fault Refusal :=
  .next (s.unlessHalted (kabs imm8))

/-- The meaning of `KSEED` (R108, R173). -/
def execKseed (s : State) : Host.Outcome State Fault Refusal :=
  .next (s.unlessHalted (kseed coreCfg))

end Sys2Proof.Machine
end

