-- ==== Sys2Proof/Machine/System.lean ====
section
/-! DEFINITION. The system command `RST` (46_system.md, rule R160), the reset input (R200), and a word that decodes to no command
(R61, R173 step 3). -/

namespace Sys2Proof.Machine

/-- The meaning of `RST` (R160): it executes on a halted core too (R173 step 1), so it has no halted check. -/
def execRst (s : State) : Host.Outcome State Fault Refusal := .next (s.restart.respond 0#32)

/-- The reset input, asserted between two commands: the effect of `RST`, and no response (R200; log 9). -/
def resetEvent (s : State) : Host.Outcome State Fault Refusal := .next s.restart

/-- A word that does not decode: suppressed on a halted core, `ILLEGAL` on a running one (R61, R173 steps 2 and 3). -/
def issueIllegal (s : State) : Host.Outcome State Fault Refusal :=
  .next (s.unlessHalted fun t => t.raise .illegal)

end Sys2Proof.Machine
end

