-- ==== Sys2Proof/Machine/XorStage.lean ====
section
/-! DEFINITION. The XOR stage (45_xor_stage.md, rules R150 to R152) and the command `XORB`. -/

namespace Sys2Proof.Machine

/-- `XORB imm8` on a running core (R150): the new bank does not depend on the data byte. -/
def xorb (cfg : Cfg) (imm8 : Byte) (s : State) : State :=
  s.withBank fun B =>
    let (B', byte) := nextByte cfg B
    (s.writeBank B').respond (zextByte (imm8 ^^^ byte))

/-- The meaning of `XORB imm8` (R150, R173). -/
def execXorb (imm8 : Byte) (s : State) : Host.Outcome State Fault Refusal :=
  .next (s.unlessHalted (xorb coreCfg imm8))

end Sys2Proof.Machine
end

