-- ==== Sys2Proof/Machine/Dispatch.lean ====
section
/-! DEFINITION. The meaning of each command: one arm per constructor of `Instr` (R58, R173). -/

namespace Sys2Proof.Machine

def exec (i : Instr) (s : State) : Host.Outcome State Fault Refusal :=
  match i with
  | .rst => Sys2Proof.Machine.execRst s
  | .kinit => Sys2Proof.Machine.execKinit s
  | .kabs imm8 => Sys2Proof.Machine.execKabs imm8 s
  | .kseed => Sys2Proof.Machine.execKseed s
  | .lds idx imm32 => Sys2Proof.Machine.execLds idx imm32 s
  | .rds idx => Sys2Proof.Machine.execRds idx s
  | .clk => Sys2Proof.Machine.execClk s
  | .nextb => Sys2Proof.Machine.execNextb s
  | .xorb imm8 => Sys2Proof.Machine.execXorb imm8 s
  | .comb imm11 => Sys2Proof.Machine.execComb imm11 s

end Sys2Proof.Machine
end

