-- ==== Sys2Proof/Machine/Step.lean ====
section
/-! DEFINITION. One step: the host's next move (R13, R46, R206). A command word is executed as R173 says: the exact `RST` word
decodes to `RST`, whose meaning has no halted check; any other word is suppressed on a halted core, by the meaning of the
command it decodes to or by `issueIllegal`. -/

namespace Sys2Proof.Machine

/-- The whole execution of one command word (R173). -/
def execWord (w : CmdWord) (s : State) : Host.Outcome State Fault Refusal :=
  match decode w with
  | .ok i => exec i s
  | .error _ => issueIllegal s

/-- One step takes the host's next move. With no move to make the host waits and the core holds its state (R13, R192). -/
def step (s : State) : Host.Outcome State Fault Refusal :=
  match s.takeMove with
  | none => .next s
  | some (.wait, t) => .next t
  | some (.reset, t) => resetEvent t
  | some (.issue w, t) => execWord w t

/-- The state in which the host issues the given word next (R206; log 4). -/
def State.withFetchWord (s : State) (nbits w : Nat) : State := s.issueNext (tableWord nbits w)

end Sys2Proof.Machine
end

