-- ==== Sys2Proof/Machine/Pseudo.lean ====
section
/-! DEFINITION. The pseudo-commands and their exact expansions (rule R65). They are the host's shorthand: the core sees the
commands they expand to. -/

namespace Sys2Proof.Machine

/-- A pseudo-command (R65). -/
inductive Pseudo where
  /-- `KEY "c1 ... cn"`: construct a fresh bank from a passphrase. -/
  | key (passphrase : List Byte)
  /-- `XORS "d1 ... dn"`: transform the bytes in order. -/
  | xors (data : List Byte)
  /-- `LDALL imm32`: seed all eleven Registers alike. -/
  | ldall (imm32 : Word)
  /-- `SKIP n`: advance the keystream by `n` bytes. -/
  | skip (n : Nat)
deriving DecidableEq, Repr

/-- The exact expansion of a pseudo-command (R65). -/
def Pseudo.expand : Pseudo → List Instr
  | .key p => .kinit :: p.map .kabs ++ [.kseed]
  | .xors d => d.map .xorb
  | .ldall v => (List.finRange NREG).map fun i => .lds (BitVec.ofNat 4 i.val) v
  | .skip n => List.replicate n .nextb

end Sys2Proof.Machine
end

