-- ==== Sys2Proof/Safety.lean ====
section
/-! DEFINITION. The terms claims are made in: the invariants of a good state (rules R24, R30, R57, R201), runs of command words and their
responses (R46, R204), the Registers stepped one after another (R47), and several cores side by side (R50, R190). -/

namespace Sys2Proof.Machine

/-- Invariant `NZ`: no Register that holds a value holds 0 (R24). -/
def State.NZ (s : State) : Prop := ∀ (i : RegIdx) (v : Word), s.S[i] = some v → v ≠ 0#32

/-- `ACCV = 0 -> ACCN = 0` (R201). -/
def State.AccOk (s : State) : Prop := s.ACCV = false → s.ACCN = false

/-- The response at the port: its `STATUS` is `FAULT`, and `DOUT` is 0 when `STATUS` is not (R30, R57, R174, R175). -/
def State.PortOk (s : State) : Prop :=
  ∀ r : Response, s.rsp = some r → r.status = s.FAULT ∧ (r.status ≠ 0#4 → r.dout = 0#32)

/-- The response of a finished command, with the state it leaves: the pair of R46. -/
def answered (o : Host.Outcome State Fault Refusal) : Option (State × Response) :=
  match o with
  | .next t => t.rsp.map fun r => (t, r)
  | .fault _ => none
  | .refused _ => none

/-- A run: the words are executed in the order the host issues them, and every response is kept, first one first (R46). -/
def run : List CmdWord → State → Option (State × List Response)
  | [], s => some (s, [])
  | w :: ws, s =>
    match answered (execWord w s) with
    | none => none
    | some (t, r) =>
      match run ws t with
      | none => none
      | some (u, rs) => some (u, r :: rs)

/-- A run of commands: the run of their words (R60). -/
def runCommands (is : List Instr) (s : State) : Option (State × List Response) := run (is.map encode) s

/-- The word of `RST` (R160). -/
def rstWord : CmdWord := 0x1000000000#40

/-- One Register steps and its bit is collected in its place, the others staying as they are (R47). -/
def stepOne (cfg : Cfg) (p : Bank × Vector Bool NREG) (i : RegIdx) : Bank × Vector Bool NREG :=
  (p.1.set i.val (lfsrStep cfg.mask[i] p.1[i]).1 i.isLt, p.2.set i.val (lfsrStep cfg.mask[i] p.1[i]).2 i.isLt)

/-- The Registers step one after another in the order listed (R47). -/
def stepInOrder (cfg : Cfg) (order : List RegIdx) (p : Bank × Vector Bool NREG) : Bank × Vector Bool NREG :=
  order.foldl (stepOne cfg) p

/-- Several cores side by side (R50, R190): a list of independent states. Core `k` makes a step; the others do not. -/
def stepCore (k : Nat) (cores : List State) : List State :=
  match cores[k]? with
  | none => cores
  | some s =>
    match step s with
    | .next t => cores.set k t
    | .fault _ => cores
    | .refused _ => cores

/-- A finished run is successful when `FAULT = 0` at its end (R204). -/
def State.successful (s : State) : Prop := s.FAULT = 0#4

/-- The bank clocks a command makes on a keyed running core (R45, R121, R141). -/
def clocks : Instr → Nat
  | .rst => 0
  | .kinit => 0
  | .kabs _ => 0
  | .kseed => 0
  | .lds _ _ => 0
  | .rds _ => 0
  | .clk => 1
  | .nextb => 8
  | .xorb _ => 8
  | .comb _ => 0

/-- The fault a command raises on a running core, if any: the table of R172, for a command that decoded. -/
def faultOf (cfg : Cfg) (s : State) : Instr → Option Fault
  | .rst => none
  | .kinit => none
  | .kabs _ => if s.ACCV = false then some .noacc else none
  | .kseed =>
    if s.ACCV = false then some .noacc
    else if cfg.rejectEmpty = true ∧ s.ACCN = false then some .emptykey
    else none
  | .lds _ imm32 => if imm32 = 0#32 then some .zeroseed else none
  | .rds idx => if s.V.getLsbD idx.toNat = false then some .unkeyed else none
  | .clk => if s.V ≠ 0x7FF#11 then some .unkeyed else none
  | .nextb => if s.V ≠ 0x7FF#11 then some .unkeyed else none
  | .xorb _ => if s.V ≠ 0x7FF#11 then some .unkeyed else none
  | .comb _ => none

/-- The complete truth table of `combine` as the spec prints it, 64 words of 32 bits (R132 e). -/
def combineTable : List Word :=
  [0x27D8D8D8#32, 0x2727D827#32, 0x27D8D8D8#32, 0x2727D827#32, 0x27D8D8D8#32, 0x2727D827#32, 0xD8272727#32, 0xD8D827D8#32] ++
  [0xD8272727#32, 0xD8D827D8#32, 0x27D8D8D8#32, 0x2727D827#32, 0xD8272727#32, 0xD8D827D8#32, 0xD8272727#32, 0xD8D827D8#32] ++
  [0xD8272727#32, 0xD8D827D8#32, 0xD8272727#32, 0xD8D827D8#32, 0xD8272727#32, 0xD8D827D8#32, 0x27D8D8D8#32, 0x2727D827#32] ++
  [0x27D8D8D8#32, 0x2727D827#32, 0xD8272727#32, 0xD8D827D8#32, 0x27D8D8D8#32, 0x2727D827#32, 0x27D8D8D8#32, 0x2727D827#32] ++
  [0xD8272727#32, 0xD8D827D8#32, 0xD8272727#32, 0xD8D827D8#32, 0xD8272727#32, 0xD8D827D8#32, 0x27D8D8D8#32, 0x2727D827#32] ++
  [0x27D8D8D8#32, 0x2727D827#32, 0xD8272727#32, 0xD8D827D8#32, 0x27D8D8D8#32, 0x2727D827#32, 0x27D8D8D8#32, 0x2727D827#32] ++
  [0x27D8D8D8#32, 0x2727D827#32, 0x27D8D8D8#32, 0x2727D827#32, 0x27D8D8D8#32, 0x2727D827#32, 0xD8272727#32, 0xD8D827D8#32] ++
  [0xD8272727#32, 0xD8D827D8#32, 0x27D8D8D8#32, 0x2727D827#32, 0xD8272727#32, 0xD8D827D8#32, 0xD8272727#32, 0xD8D827D8#32]

end Sys2Proof.Machine
end

