-- ==== Sys2Proof/Certificates/Slice0/Obligations.lean ====
section
/-! DEFINITION. The statements for the provers. Each docstring names the rule of spec/ it formalises. Numbers marked CFG_REF use the
spec's reference configuration (R9) through the meanings' own functions; everything said of `exec`, `execWord` and `step` is about
the core's configuration, of which only well-formedness is known (log 1). -/

open Sys2Proof Sys2Proof.Machine

/-! ## Encoding -/

/-- R58, R60: decoding the word of a well-formed command gives that command, with every operand at every value. -/
def Obligations.EncodedCommandDecodesToItself : Prop :=
  ∀ i : Instr, i.wf = true → decode (encode i) = .ok i

/-- R60: the word of the command a legal word decodes to is that word, and the command is well-formed. -/
def Obligations.LegalWordIsTheWordOfItsCommand : Prop :=
  ∀ (w : CmdWord) (i : Instr), decode w = .ok i → encode i = w ∧ i.wf = true

/-- R60: the decoder is the case table over the three fields, read here as numbers; it is injective on legal words; encoding
gives a legal word back; and the number of legal words. -/
def Obligations.DecoderIsTheCaseTable : Prop :=
  (∀ w : CmdWord, (decode w).toOption =
    let op := w.toNat / 2 ^ 36
    let idx := w.toNat / 2 ^ 32 % 16
    let imm := w.toNat % 2 ^ 32
    if op = 0x1 ∧ idx = 0 ∧ imm = 0 then some .rst
    else if op = 0x2 ∧ idx = 0 ∧ imm = 0 then some .kinit
    else if op = 0x3 ∧ idx = 0 ∧ imm < 256 then some (.kabs (BitVec.ofNat 8 imm))
    else if op = 0x4 ∧ idx = 0 ∧ imm = 0 then some .kseed
    else if op = 0x5 ∧ idx ≤ 10 then some (.lds (BitVec.ofNat 4 idx) (BitVec.ofNat 32 imm))
    else if op = 0x6 ∧ idx ≤ 10 ∧ imm = 0 then some (.rds (BitVec.ofNat 4 idx))
    else if op = 0x7 ∧ idx = 0 ∧ imm = 0 then some .clk
    else if op = 0x8 ∧ idx = 0 ∧ imm = 0 then some .nextb
    else if op = 0x9 ∧ idx = 0 ∧ imm < 256 then some (.xorb (BitVec.ofNat 8 imm))
    else if op = 0xA ∧ idx = 0 ∧ imm < 2048 then some (.comb (BitVec.ofNat 11 imm))
    else none) ∧
  (∀ (v w : CmdWord) (i : Instr), decode v = .ok i → decode w = .ok i → v = w) ∧
  (∀ (w : CmdWord) (i : Instr), decode w = .ok i → encode i = w) ∧
  Nat.card { w : CmdWord // ∃ i, decode w = .ok i } = 5 + 2 * 256 + 11 * 2 ^ 32 + 11 + 2048

/-- R58: a word is a command exactly when it matches the command's row of opcode_table.json, with `idx <= 10` in formats R and
RI; and no word matches two rows. -/
def Obligations.OpcodeTableSelectsTheCommand : Prop :=
  (∀ (w : CmdWord) (r : OpcodeRow), r ∈ opcodeTable →
    (r.accepts w = true ↔ ∃ i, decode w = .ok i ∧ i.mnemonic = r.mnemonic)) ∧
  (∀ (w : CmdWord) (r r' : OpcodeRow), r ∈ opcodeTable → r' ∈ opcodeTable →
    r.accepts w = true → r'.accepts w = true → r = r')

/-- R61: which words do not decode, case by case, and that each of them raises `ILLEGAL` on a running core. -/
def Obligations.UndecodableWordRaisesIllegal : Prop :=
  (∀ w : CmdWord, (∃ e, decode w = .error e) ↔
    let op := (opOf w).toNat
    let idx := (idxOf w).toNat
    let imm := (immOf w).toNat
    (op = 0x0 ∨ 0xB ≤ op) ∨
    ((op = 0x5 ∨ op = 0x6) ∧ 11 ≤ idx) ∨
    (op ≠ 0x5 ∧ op ≠ 0x6 ∧ 1 ≤ op ∧ op ≤ 0xA ∧ idx ≠ 0) ∨
    ((op = 0x1 ∨ op = 0x2 ∨ op = 0x4 ∨ op = 0x6 ∨ op = 0x7 ∨ op = 0x8) ∧ imm ≠ 0) ∨
    ((op = 0x3 ∨ op = 0x9) ∧ 256 ≤ imm) ∨
    (op = 0xA ∧ 2048 ≤ imm)) ∧
  (∃ e, decode 0x0000000000#40 = .error e) ∧
  (∃ e, decode 0xFFFFFFFFFF#40 = .error e) ∧
  (∀ (w : CmdWord) (e : DecodeError) (s : State), decode w = .error e → s.fault = none →
    execWord w s = .next { s with fault := some .illegal, rsp := some ⟨1#4, 0#32⟩ })

/-- R62: `LDS idx, 0` is a legal encoding that always faults `ZEROSEED` when executed. -/
def Obligations.LdsZeroIsLegalAndFaults : Prop :=
  ∀ idx : Nibble, idx.toNat ≤ 10 →
    decode (mkWord 0x5#4 idx 0#32) = .ok (.lds idx 0#32) ∧
    ∀ s : State, s.fault = none →
      exec (.lds idx 0#32) s = .next { s with fault := some .zeroseed, rsp := some ⟨4#4, 0#32⟩ }

/-- Log 7 (R61 b): `LDS` and `RDS` as terms with an index of 11..15, which no legal word has, raise `ILLEGAL`. -/
def Obligations.OutOfRangeIndexRaisesIllegal : Prop :=
  ∀ (idx : Nibble) (v : Word) (s : State), 11 ≤ idx.toNat → s.fault = none →
    exec (.lds idx v) s = .next { s with fault := some .illegal, rsp := some ⟨1#4, 0#32⟩ } ∧
    exec (.rds idx) s = .next { s with fault := some .illegal, rsp := some ⟨1#4, 0#32⟩ }

/-- R58: one word of every row, written out from the spec's patterns, decodes to its command (a sanity check). -/
def Obligations.WrittenWordsDecode : Prop :=
  decode 0x1000000000#40 = .ok .rst ∧ decode 0x2000000000#40 = .ok .kinit ∧
  decode 0x30000000FF#40 = .ok (.kabs 0xFF#8) ∧ decode 0x4000000000#40 = .ok .kseed ∧
  decode 0x5A00000001#40 = .ok (.lds 10#4 1#32) ∧ decode 0x6A00000000#40 = .ok (.rds 10#4) ∧
  decode 0x7000000000#40 = .ok .clk ∧ decode 0x8000000000#40 = .ok .nextb ∧
  decode 0x9000000048#40 = .ok (.xorb 0x48#8) ∧ decode 0xA0000007FF#40 = .ok (.comb 0x7FF#11)

/-! ## The machine as a whole -/

/-- R46, R173: a step in which the host issues a legal word is the meaning of its command. That the host's moves are a list in the
state, of which a step takes the first, is the model's choice (log 4). The second clause is the model's own: `withFetchWord` puts a
word at the head of that list (log 4), read from the opcode table's numbering, whatever `nbits` is (log 14). -/
def Obligations.StepRunsTheDecodedCommand : Prop :=
  (∀ (s : State) (w : CmdWord) (later : List HostMove) (i : Instr), s.host = .issue w :: later → decode w = .ok i →
    step s = exec i { s with host := later }) ∧
  (∀ (s : State) (nbits w : Nat) (i : Instr), decodeTableWord nbits w = some i →
    step (s.withFetchWord nbits w) = exec i s)

/-- R173: the order of checks. The exact `RST` word first; then the halted check; then decoding; then the command's own checks,
in the order of R172's table; then its effect, which raises no fault. What a decoded command's word does is the command's
meaning. -/
def Obligations.WordIsExecutedInTheOrderOfChecks : Prop :=
  (∀ s : State, execWord 0x1000000000#40 s =
    .next { State.reset with rsp := some ⟨0#4, 0#32⟩, host := s.host }) ∧
  (∀ (w : CmdWord) (s : State) (f : Fault), w ≠ 0x1000000000#40 → s.fault = some f →
    execWord w s = .next { s with rsp := some ⟨f.code, 0#32⟩ }) ∧
  (∀ (w : CmdWord) (s : State) (e : DecodeError), s.fault = none → decode w = .error e →
    execWord w s = .next { s with fault := some .illegal, rsp := some ⟨1#4, 0#32⟩ }) ∧
  (∀ (w : CmdWord) (s : State) (i : Instr) (f : Fault), s.fault = none → decode w = .ok i →
    faultOf coreCfg s i = some f →
    execWord w s = .next { s with fault := some f, rsp := some ⟨f.code, 0#32⟩ }) ∧
  (∀ (w : CmdWord) (s : State) (i : Instr), s.fault = none → decode w = .ok i → faultOf coreCfg s i = none →
    ∃ t d, execWord w s = .next t ∧ exec i s = .next t ∧ t.fault = none ∧ t.rsp = some ⟨0#4, d⟩)

/-- R172: which command raises which fault and exactly when, row by row, on a running core: an undecodable word always raises
`ILLEGAL`, and a command raises what its row says. -/
def Obligations.CommandFaultsExactlyByTheTable : Prop :=
  (∀ (w : CmdWord) (e : DecodeError) (s : State), decode w = .error e → s.fault = none →
    ∃ t, execWord w s = .next t ∧ t.fault = some .illegal) ∧
  ∀ s : State, s.fault = none →
    (∃ t, exec .rst s = .next t ∧ t.fault = none) ∧
    (∃ t, exec .kinit s = .next t ∧ t.fault = none) ∧
    (∀ b : Byte, ∃ t, exec (.kabs b) s = .next t ∧ t.fault = if s.ACCV = false then some .noacc else none) ∧
    (∃ t, exec .kseed s = .next t ∧ t.fault =
      if s.ACCV = false then some .noacc
      else if coreCfg.rejectEmpty = true ∧ s.ACCN = false then some .emptykey else none) ∧
    (∀ (idx : Nibble) (v : Word), idx.toNat ≤ 10 →
      ∃ t, exec (.lds idx v) s = .next t ∧ t.fault = if v = 0#32 then some .zeroseed else none) ∧
    (∀ idx : Nibble, idx.toNat ≤ 10 →
      ∃ t, exec (.rds idx) s = .next t ∧ t.fault = if s.V.getLsbD idx.toNat = false then some .unkeyed else none) ∧
    (∃ t, exec .clk s = .next t ∧ t.fault = if s.V ≠ 0x7FF#11 then some .unkeyed else none) ∧
    (∃ t, exec .nextb s = .next t ∧ t.fault = if s.V ≠ 0x7FF#11 then some .unkeyed else none) ∧
    (∀ b : Byte, ∃ t, exec (.xorb b) s = .next t ∧ t.fault = if s.V ≠ 0x7FF#11 then some .unkeyed else none) ∧
    (∀ b : Bits11, ∃ t, exec (.comb b) s = .next t ∧ t.fault = none)

/-- R174: raising a fault has exactly this effect: `FAULT` takes the code, the response is the code and 0, and nothing else
changes. -/
def Obligations.RaisingAFaultChangesNothingElse : Prop :=
  ∀ (w : CmdWord) (s t : State) (f : Fault), s.fault = none → execWord w s = .next t → t.fault = some f →
    t.S = s.S ∧ t.acc = s.acc ∧ t.accn = s.accn ∧ t.host = s.host ∧
    t.rsp = some ⟨f.code, 0#32⟩ ∧ t.FAULT = f.code

/-- R175: a halted core suppresses every word but the exact `RST` word: nothing changes, and the answer is `FAULT` and 0. -/
def Obligations.HaltedCoreSuppressesAllButRst : Prop :=
  ∀ (w : CmdWord) (s : State), s.FAULT ≠ 0#4 → w ≠ 0x1000000000#40 →
    execWord w s = .next { s with rsp := some ⟨s.FAULT, 0#32⟩ }

/-- R176: a step leaves a halted core halted with its first fault, its bank and its accumulator, unless the move was the `RST`
word or the reset input, which discard the bank and the accumulator. -/
def Obligations.OnlyRstOrResetLeavesTheHaltedState : Prop :=
  ∀ (s t : State) (f : Fault), s.fault = some f → step s = .next t →
    (t.fault = some f ∧ t.S = s.S ∧ t.acc = s.acc ∧ t.accn = s.accn) ∨
    ((∃ later, s.host = .issue 0x1000000000#40 :: later ∨ s.host = .reset :: later) ∧
      t.fault = none ∧ t.V = 0#11 ∧ t.ACCV = false ∧ t.ACCN = false)

/-- R171: the codes, and that 6 to 15 never occur in `FAULT`. -/
def Obligations.FaultCodesAreOneToFive : Prop :=
  Fault.code .illegal = 1#4 ∧ Fault.code .noacc = 2#4 ∧ Fault.code .unkeyed = 3#4 ∧
  Fault.code .zeroseed = 4#4 ∧ Fault.code .emptykey = 5#4 ∧
  (∀ f : Fault, f = .illegal ∨ f = .noacc ∨ f = .unkeyed ∨ f = .zeroseed ∨ f = .emptykey) ∧
  (∀ s : State, s.FAULT.toNat ≤ 5) ∧ (∀ s : State, s.FAULT = 0#4 ↔ s.fault = none)

/-- R178: there is no stuck state: every step, whatever the host's move, answers a next state. -/
def Obligations.NoStepStops : Prop := ∀ s : State, ∃ t, step s = .next t

/-- R30, R57: every command word gets exactly one response, whose `STATUS` is `FAULT` and whose `DOUT` is 0 when `STATUS` is
not. -/
def Obligations.EveryWordIsAnswered : Prop :=
  ∀ (w : CmdWord) (s : State), ∃ t r, execWord w s = .next t ∧ t.rsp = some r ∧ t.host = s.host ∧
    r.status = t.FAULT ∧ (r.status ≠ 0#4 → r.dout = 0#32)

/-- R24: invariant `NZ` holds after reset and every step keeps it. -/
def Obligations.NonzeroInvariantIsKept : Prop :=
  State.reset.NZ ∧ ∀ s t : State, s.NZ → step s = .next t → t.NZ

/-- R30, R57, R201: every step keeps `ACCV = 0 -> ACCN = 0` and the agreement of the response with `FAULT`. The rules speak of the
response to a command; that the port still shows it after a wait (log 3), and that it is empty after a reset input (log 9), is the
model's choice, and for those two steps the second half rests on it. -/
def Obligations.StatusInvariantIsKept : Prop :=
  ∀ s t : State, s.AccOk → s.PortOk → step s = .next t → t.AccOk ∧ t.PortOk

/-- R30, R57, R201: the two invariants of status hold after reset. That there is no response yet is the model's own (log 3). -/
def Obligations.StatusInvariantHoldsAfterReset : Prop := State.reset.AccOk ∧ State.reset.PortOk

/-- R201: the state after reset, and the model's initial state. -/
def Obligations.ResetHoldsNothing : Prop :=
  (∀ i : RegIdx, State.reset.S[i] = none) ∧ State.reset.V = 0#11 ∧ State.reset.acc = none ∧
  State.reset.ACCV = false ∧ State.reset.ACCN = false ∧ State.reset.FAULT = 0#4 ∧
  Sys2Proof.core.reset = State.reset

/-- R200: the reset input, between any two commands, has exactly the effect of `RST` on the architectural state. That the
response port is empty afterwards is the model's reading of "Reset produces no response" (log 9). -/
def Obligations.ResetInputHasTheEffectOfRst : Prop :=
  ∀ (s : State) (later : List HostMove), s.host = .reset :: later →
    step s = .next { State.reset with host := later } ∧
    ∃ t u, step s = .next t ∧ exec .rst s = .next u ∧
      t.S = u.S ∧ t.acc = u.acc ∧ t.accn = u.accn ∧ t.fault = u.fault

/-- R13, R192: while the host waits the core holds its architectural state. That the response port keeps its response meanwhile
(log 3), and that an empty list of moves is a host that waits (log 4), is the model's choice. -/
def Obligations.WaitingHoldsTheState : Prop :=
  (∀ (s : State) (later : List HostMove), s.host = .wait :: later → step s = .next { s with host := later }) ∧
  (∀ s : State, s.host = [] → step s = .next s)

/-! ## The commands -/

/-- R160: `RST`, halted or not, with its pseudocode's effect; its exact word; and the corner case of the words with `op = 0x1` that
differ from it. That no other command executes on a halted core is `Obligations.HaltedCoreSuppressesAllButRst`. -/
def Obligations.RstReturnsToTheResetState : Prop :=
  (∀ s : State, exec .rst s = .next { State.reset with rsp := some ⟨0#4, 0#32⟩, host := s.host }) ∧
  (∀ w : CmdWord, decode w = .ok .rst ↔ w = 0x1000000000#40) ∧
  (∀ (w : CmdWord) (s : State), opOf w = 0x1#4 → w ≠ 0x1000000000#40 →
    execWord w s = .next
      (match s.fault with
       | none => { s with fault := some .illegal, rsp := some ⟨1#4, 0#32⟩ }
       | some f => { s with rsp := some ⟨f.code, 0#32⟩ }))

/-- R106: `KINIT` on a running core, with its word and the CFG_REF example. -/
def Obligations.KinitStartsTheAccumulator : Prop :=
  decode 0x2000000000#40 = .ok .kinit ∧
  (∀ s : State, s.fault = none →
    exec .kinit s = .next { s with acc := some coreCfg.salt, accn := false, rsp := some ⟨0#4, 0#32⟩ }) ∧
  (kinit Cfg.ref State.reset).acc = some 0x811C9DC5#32 ∧ (kinit Cfg.ref State.reset).accn = false

/-- R107: `KABS imm8` on a running core, with its words, its fault, the corner cases and the CFG_REF example. -/
def Obligations.KabsAbsorbsOneByte : Prop :=
  (∀ b : Byte, decode (mkWord 0x3#4 0#4 (b.setWidth 32)) = .ok (.kabs b)) ∧
  (∀ (s : State) (b : Byte), s.fault = none → s.acc = none →
    exec (.kabs b) s = .next { s with fault := some .noacc, rsp := some ⟨2#4, 0#32⟩ }) ∧
  (∀ (s : State) (b : Byte) (a : Word), s.fault = none → s.acc = some a →
    exec (.kabs b) s = .next
      { s with acc := some ((a <<< 5) ^^^ a ^^^ b.setWidth 32), accn := true, rsp := some ⟨0#4, 0#32⟩ }) ∧
  (∀ a : Word, absorb a 0#8 = a ↔ a.extractLsb' 0 27 = 0#27) ∧
  absorb 0xFFFFFFFF#32 0#8 = 0x0000001F#32 ∧ absorb 0x08000000#32 0#8 = 0x08000000#32 ∧
  (kabs 0x61#8 (kinit Cfg.ref State.reset)).acc = some 0xA28F2504#32

/-- R108: `KSEED` on a running core: the two faults in their order, the eleven seeds from the one accumulator, and the
accumulator gone. Whether the core rejects an empty passphrase is its configuration's (log 1): the second clause is the passphrase
that is not empty, the third says what happens in either case, and the fourth says it of every configuration. -/
def Obligations.KseedConstructsTheBank : Prop :=
  (∀ s : State, s.fault = none → s.acc = none →
    exec .kseed s = .next { s with fault := some .noacc, rsp := some ⟨2#4, 0#32⟩ }) ∧
  (∀ (s : State) (a : Word), s.fault = none → s.acc = some a → s.accn = true →
    exec .kseed s = .next
      { s with
        S := Vector.ofFn fun i => some (if a ^^^ coreCfg.K i = 0#32 then 1#32 else a ^^^ coreCfg.K i)
        acc := none
        accn := false
        rsp := some ⟨0#4, 0#32⟩ }) ∧
  (∀ (s : State) (a : Word), s.fault = none → s.acc = some a →
    exec .kseed s = .next
      (if coreCfg.rejectEmpty = true ∧ s.accn = false then
        { s with fault := some .emptykey, rsp := some ⟨5#4, 0#32⟩ }
      else
        { s with
          S := Vector.ofFn fun i => some (if a ^^^ coreCfg.K i = 0#32 then 1#32 else a ^^^ coreCfg.K i)
          acc := none
          accn := false
          rsp := some ⟨0#4, 0#32⟩ })) ∧
  (∀ (cfg : Cfg) (s : State) (a : Word), s.acc = some a →
    (cfg.rejectEmpty = true → s.accn = false →
      kseed cfg s = { s with fault := some .emptykey, rsp := some ⟨5#4, 0#32⟩ }) ∧
    ((cfg.rejectEmpty = false ∨ s.accn = true) →
      (∀ i : RegIdx, (kseed cfg s).S[i] = some (if a ^^^ cfg.K i = 0#32 then 1#32 else a ^^^ cfg.K i)) ∧
      (kseed cfg s).V = 0x7FF#11)) ∧
  decode 0x4000000000#40 = .ok .kseed ∧
  seed Cfg.ref 0xDAA66D2B#32 3 = 1#32 ∧ seed Cfg.ref 0xDAA66D2B#32 0 = 0xDAA66D2B#32 ∧
  (kabs 0x63#8 (kabs 0x62#8 (kabs 0x61#8 (kinit Cfg.ref State.reset)))).acc = some 0x9E1B3945#32 ∧
  seedBank Cfg.ref 0x9E1B3945#32 = #v[0x9E1B3945#32, 0x002C40FC#32, 0xA275CA37#32, 0x44BD546E#32, 0xE6C6DFA1#32,
    0x890E59D8#32, 0x2B57E313#32, 0xCD9F6D4A#32, 0x6FA0F48D#32, 0x11E87EC4#32, 0xB031F87F#32]

/-- R86: `LDS idx, imm32` on a running core: its words, the fault, and the one Register written. -/
def Obligations.LdsConstructsOneRegister : Prop :=
  (∀ (i : RegIdx) (v : Word), decode (mkWord 0x5#4 (BitVec.ofNat 4 i.val) v) = .ok (.lds (BitVec.ofNat 4 i.val) v)) ∧
  (∀ (s : State) (i : RegIdx), s.fault = none →
    exec (.lds (BitVec.ofNat 4 i.val) 0#32) s =
      .next { s with fault := some .zeroseed, rsp := some ⟨4#4, 0#32⟩ }) ∧
  (∀ (s : State) (i : RegIdx) (v : Word), s.fault = none → v ≠ 0#32 →
    ∃ t, exec (.lds (BitVec.ofNat 4 i.val) v) s = .next t ∧
      t.S[i] = some v ∧ (∀ j : RegIdx, j ≠ i → t.S[j] = s.S[j]) ∧
      t.V = s.V ||| (1#11 <<< i.val) ∧
      t.acc = s.acc ∧ t.accn = s.accn ∧ t.fault = none ∧ t.host = s.host ∧ t.rsp = some ⟨0#4, 0#32⟩) ∧
  (lds 3#4 5#32 State.reset).S[3] = some 5#32 ∧ (lds 3#4 5#32 State.reset).V = 0x008#11

/-- R87: `RDS idx` on a running core: its words, the fault, the whole Register in `DOUT`, nothing written; under `NZ` the value
is not 0; and the CFG_REF example after `KEY "abc"`. -/
def Obligations.RdsReadsOneRegister : Prop :=
  (∀ i : RegIdx, decode (mkWord 0x6#4 (BitVec.ofNat 4 i.val) 0#32) = .ok (.rds (BitVec.ofNat 4 i.val))) ∧
  (∀ (s : State) (i : RegIdx), s.fault = none → s.S[i] = none →
    exec (.rds (BitVec.ofNat 4 i.val)) s = .next { s with fault := some .unkeyed, rsp := some ⟨3#4, 0#32⟩ }) ∧
  (∀ (s : State) (i : RegIdx) (v : Word), s.fault = none → s.S[i] = some v →
    exec (.rds (BitVec.ofNat 4 i.val)) s = .next { s with rsp := some ⟨0#4, v⟩ } ∧ (s.NZ → v ≠ 0#32)) ∧
  (rds 1#4 (kseed Cfg.ref (kabs 0x63#8 (kabs 0x62#8 (kabs 0x61#8 (kinit Cfg.ref State.reset)))))).rsp =
    some ⟨0#4, 0x002C40FC#32⟩

/-- R122: `CLK` on a running core: its word, the fault, every Register stepped once under its own mask, the fresh bits and the
combined bit in `DOUT`, nothing else written; every Register in state 1; and the two CFG_REF clocks after `LDALL 1`. -/
def Obligations.ClkStepsTheBankOnce : Prop :=
  decode 0x7000000000#40 = .ok .clk ∧
  (∀ s : State, s.fault = none → (∃ i : RegIdx, s.S[i] = none) →
    exec .clk s = .next { s with fault := some .unkeyed, rsp := some ⟨3#4, 0#32⟩ }) ∧
  (∀ (s : State) (B : Bank), s.fault = none → (∀ i : RegIdx, s.S[i] = some B[i]) →
    ∃ t d, exec .clk s = .next t ∧
      (∀ i : RegIdx, t.S[i] = some
        (if B[i].getLsbD 0 = true then (B[i] >>> 1) ^^^ coreCfg.mask[i] else B[i] >>> 1)) ∧
      t.V = 0x7FF#11 ∧ t.rsp = some ⟨0#4, d⟩ ∧
      (∀ i : RegIdx, d.getLsbD i.val = B[i].getLsbD 0) ∧
      d.getLsbD 11 = combine (d.setWidth 11) ∧ (∀ k : Nat, 12 ≤ k → d.getLsbD k = false) ∧
      t.acc = s.acc ∧ t.accn = s.accn ∧ t.fault = none ∧ t.host = s.host) ∧
  (∀ s : State, s.fault = none → (∀ i : RegIdx, s.S[i] = some 1#32) →
    ∃ t, exec .clk s = .next t ∧ t.rsp = some ⟨0#4, 0x00000FFF#32⟩ ∧
      ∀ i : RegIdx, t.S[i] = some coreCfg.mask[i]) ∧
  (let s := State.reset.writeBank (Vector.replicate NREG 1#32)
   (clk Cfg.ref s).rsp = some ⟨0#4, 0x00000FFF#32⟩ ∧ (clk Cfg.ref (clk Cfg.ref s)).rsp = some ⟨0#4, 0x00000911#32⟩)

/-- R142: `NEXTB` on a running core: its word, the fault, the bank eight clocks later, the byte's bits from the eight clocks
(first to bit 7), nothing else written; with every Register in state 1 the byte is at least 0x80; and the CFG_REF bytes after
`LDALL 1` and after `KEY "abc"`. -/
def Obligations.NextbProducesOneByte : Prop :=
  decode 0x8000000000#40 = .ok .nextb ∧
  (∀ s : State, s.fault = none → (∃ i : RegIdx, s.S[i] = none) →
    exec .nextb s = .next { s with fault := some .unkeyed, rsp := some ⟨3#4, 0#32⟩ }) ∧
  (∀ (s : State) (B : Bank), s.fault = none → (∀ i : RegIdx, s.S[i] = some B[i]) →
    ∃ t d, exec .nextb s = .next t ∧
      (∀ i : RegIdx, t.S[i] = some (bankAfter coreCfg B 8)[i]) ∧ t.V = 0x7FF#11 ∧ t.rsp = some ⟨0#4, d⟩ ∧
      (∀ n : Nat, n < 8 → d.getLsbD (7 - n) = keyBit coreCfg B n) ∧ (∀ k : Nat, 8 ≤ k → d.getLsbD k = false) ∧
      t.acc = s.acc ∧ t.accn = s.accn ∧ t.fault = none ∧ t.host = s.host) ∧
  (∀ s : State, s.fault = none → (∀ i : RegIdx, s.S[i] = some 1#32) →
    ∃ t d, exec .nextb s = .next t ∧ t.rsp = some ⟨0#4, d⟩ ∧ 0x80 ≤ d.toNat) ∧
  (let s := State.reset.writeBank (Vector.replicate NREG 1#32)
   (nextb Cfg.ref s).rsp = some ⟨0#4, 0xF6#32⟩ ∧ (nextb Cfg.ref (nextb Cfg.ref s)).rsp = some ⟨0#4, 0x67#32⟩) ∧
  (let s := State.reset.writeBank (seedBank Cfg.ref (accOf Cfg.ref [0x61#8, 0x62#8, 0x63#8]))
   (nextb Cfg.ref s).rsp = some ⟨0#4, 0xCE#32⟩ ∧
   (nextb Cfg.ref (nextb Cfg.ref s)).rsp = some ⟨0#4, 0xA3#32⟩ ∧
   (nextb Cfg.ref (nextb Cfg.ref (nextb Cfg.ref s))).rsp = some ⟨0#4, 0xF1#32⟩ ∧
   (nextb Cfg.ref (nextb Cfg.ref (nextb Cfg.ref (nextb Cfg.ref s)))).rsp = some ⟨0#4, 0x55#32⟩)

/-- R150: `XORB imm8` on a running core: its words, the fault, the bank as `NEXTB` leaves it whatever the data byte, the data
byte XOR the keystream byte in `DOUT`; `XORB 0` is `NEXTB`; and the CFG_REF example after `KEY "a"`. -/
def Obligations.XorbTransformsOneByte : Prop :=
  (∀ b : Byte, decode (mkWord 0x9#4 0#4 (b.setWidth 32)) = .ok (.xorb b)) ∧
  (∀ (s : State) (b : Byte), s.fault = none → (∃ i : RegIdx, s.S[i] = none) →
    exec (.xorb b) s = .next { s with fault := some .unkeyed, rsp := some ⟨3#4, 0#32⟩ }) ∧
  (∀ (s : State) (B : Bank) (b : Byte), s.fault = none → (∀ i : RegIdx, s.S[i] = some B[i]) →
    ∃ t, exec (.xorb b) s = .next t ∧
      (∀ i : RegIdx, t.S[i] = some (bankAfter coreCfg B 8)[i]) ∧ t.V = 0x7FF#11 ∧
      t.rsp = some ⟨0#4, (b ^^^ (nextByte coreCfg B).2).setWidth 32⟩ ∧
      t.acc = s.acc ∧ t.accn = s.accn ∧ t.fault = none ∧ t.host = s.host) ∧
  (∀ s : State, exec (.xorb 0#8) s = exec .nextb s) ∧
  (xorb Cfg.ref 0x48#8 (State.reset.writeBank (seedBank Cfg.ref (accOf Cfg.ref [0x61#8])))).rsp =
    some ⟨0#4, 0x000000AB#32⟩

/-- R133: `COMB imm11` on a running core, keyed or not: its words, the combined bit in `DOUT[0]`, nothing written, and the
examples. -/
def Obligations.CombEvaluatesTheCombiner : Prop :=
  (∀ t : Bits11, decode (mkWord 0xA#4 0#4 (t.setWidth 32)) = .ok (.comb t)) ∧
  (∀ (s : State) (t : Bits11), s.fault = none →
    exec (.comb t) s = .next { s with rsp := some ⟨0#4, if combine t = true then 1#32 else 0#32⟩ }) ∧
  (∀ v : Word, 2048 ≤ v.toNat → ∃ e, decode (mkWord 0xA#4 0#4 v) = .error e) ∧
  combine 0x000#11 = false ∧ combine 0x7FF#11 = true ∧ combine 0x005#11 = false ∧ combine 0x004#11 = true

/-! ## Frames -/

/-- R35: what the key-schedule commands leave alone, whatever the state: `KINIT` and `KABS` no Register and no fault latch but a
raised fault's; `KSEED` on success nothing but the Registers, the accumulator and the status bits. -/
def Obligations.KeyScheduleCommandsFrame : Prop :=
  (∀ s t : State, exec .kinit s = .next t → t.S = s.S ∧ t.fault = s.fault ∧ t.host = s.host) ∧
  (∀ (s t : State) (b : Byte), exec (.kabs b) s = .next t →
    t.S = s.S ∧ t.host = s.host ∧ (t.fault = s.fault ∨ (t.fault = some .noacc ∧ t.acc = s.acc ∧ t.accn = s.accn))) ∧
  (∀ s t : State, exec .kseed s = .next t →
    t.host = s.host ∧ (t.fault = s.fault ∨ (t.S = s.S ∧ t.acc = s.acc ∧ t.accn = s.accn)))

/-- R35: what the bank commands leave alone, whatever the state: the accumulator and its status bits always; every Register when
the core is halted or the command faults; for `LDS`, every Register but the one it names. -/
def Obligations.BankCommandsFrame : Prop :=
  (∀ (s t : State) (idx : Nibble) (v : Word), exec (.lds idx v) s = .next t →
    t.acc = s.acc ∧ t.accn = s.accn ∧ t.host = s.host ∧
    (∀ j : RegIdx, j.val ≠ idx.toNat → t.S[j] = s.S[j]) ∧ (t.fault = s.fault ∨ t.S = s.S)) ∧
  (∀ (s t : State) (b : Byte) (i : Instr), (i = .clk ∨ i = .nextb ∨ i = .xorb b) → exec i s = .next t →
    t.acc = s.acc ∧ t.accn = s.accn ∧ t.host = s.host ∧ t.V = s.V ∧ (t.fault = s.fault ∨ t.S = s.S))

/-- R35, R45: `RDS` and `COMB` change no Register, no accumulator and no status bit, and `COMB` no fault latch. -/
def Obligations.ReadingCommandsFrame : Prop :=
  (∀ (s t : State) (idx : Nibble), exec (.rds idx) s = .next t →
    t.S = s.S ∧ t.acc = s.acc ∧ t.accn = s.accn ∧ t.host = s.host) ∧
  (∀ (s t : State) (b : Bits11), exec (.comb b) s = .next t →
    t.S = s.S ∧ t.acc = s.acc ∧ t.accn = s.accn ∧ t.fault = s.fault ∧ t.host = s.host)

/-! ## The Register -/

/-- R81: the step bit by bit, in one formula, and linear over GF(2). -/
def Obligations.LfsrStepBitByBit : Prop :=
  (∀ mask s : Word, (lfsrStep mask s).2 = s.getLsbD 0 ∧
    (lfsrStep mask s).1.getLsbD 31 = (s.getLsbD 0 && mask.getLsbD 31) ∧
    (∀ k : Nat, k ≤ 30 → (lfsrStep mask s).1.getLsbD k = (s.getLsbD (k + 1) ^^ (s.getLsbD 0 && mask.getLsbD k))) ∧
    (lfsrStep mask s).1 = (s >>> 1) ^^^ (mask &&& (if s.getLsbD 0 = true then BitVec.allOnes 32 else 0#32))) ∧
  (∀ mask a b : Word,
    (lfsrStep mask (a ^^^ b)).1 = (lfsrStep mask a).1 ^^^ (lfsrStep mask b).1 ∧
    (lfsrStep mask (a ^^^ b)).2 = ((lfsrStep mask a).2 ^^ (lfsrStep mask b).2))

/-- R83: a Register in state 0 stays in state 0 and emits 0 for ever, whatever its mask. -/
def Obligations.ZeroStateIsStuck : Prop :=
  (∀ mask : Word, lfsrStep mask 0#32 = (0#32, false)) ∧
  (∀ (mask : Word) (n : Nat), (fun s => (lfsrStep mask s).1)^[n] 0#32 = 0#32 ∧
    (lfsrStep mask ((fun s => (lfsrStep mask s).1)^[n] 0#32)).2 = false)

/-- R84: exactly when a nonzero state steps to zero; under the mask 0 every state shifts out to 0 in 32 steps; with bit 31 of the mask set it never does, and the step is a bijection with
`lfsr_unstep` its inverse; with bit 31 clear the step is not injective. -/
def Obligations.WhenAStepReachesZero : Prop :=
  (∀ mask s : Word, s ≠ 0#32 →
    ((lfsrStep mask s).1 = 0#32 ↔ s.getLsbD 0 = true ∧ s >>> 1 = mask) ∧
    ((lfsrStep mask s).1 = 0#32 ↔ s = (mask.extractLsb' 0 31 ++ 1#1) ∧ mask.getLsbD 31 = false)) ∧
  (∀ s : Word, (fun x => (lfsrStep 0#32 x).1)^[32] s = 0#32) ∧
  (∀ mask s : Word, mask.getLsbD 31 = true → s ≠ 0#32 → (lfsrStep mask s).1 ≠ 0#32) ∧
  (∀ mask : Word, mask.getLsbD 31 = true →
    (∀ s : Word, lfsrUnstep mask (lfsrStep mask s).1 = s) ∧ (∀ s' : Word, (lfsrStep mask (lfsrUnstep mask s')).1 = s')) ∧
  (∀ mask : Word, mask.getLsbD 31 = false →
    mask.extractLsb' 0 31 ++ 1#1 ≠ 0#32 ∧
    (lfsrStep mask (mask.extractLsb' 0 31 ++ 1#1)).1 = 0#32 ∧ (lfsrStep mask 0#32).1 = 0#32) ∧
  lfsrStep 0x00000057#32 0x000000AF#32 = (0#32, true)

/-! ## The Key Schedule -/

/-- R100: `absorb` by its formula and bit by bit; a byte changes bits 7..0 only; for a fixed byte it is a bijection of the
accumulator. -/
def Obligations.AbsorbLaws : Prop :=
  (∀ (a : Word) (b : Byte), absorb a b = (a <<< 5) ^^^ a ^^^ b.setWidth 32) ∧
  (∀ (a : Word) (b : Byte) (k : Nat), k < 32 →
    (absorb a b).getLsbD k = (a.getLsbD k ^^ (decide (5 ≤ k) && a.getLsbD (k - 5)) ^^ b.getLsbD k)) ∧
  (∀ (a : Word) (b b' : Byte) (k : Nat), 8 ≤ k → (absorb a b).getLsbD k = (absorb a b').getLsbD k) ∧
  absorb 0#32 0#8 = 0#32 ∧
  (∀ b : Byte, Function.Bijective fun a : Word => absorb a b)

/-- R104: no seed is zero, for any accumulator, hence for any passphrase, the empty one included. -/
def Obligations.SeedsAreNeverZero : Prop :=
  (∀ (cfg : Cfg) (acc : Word) (i : RegIdx), seed cfg acc i ≠ 0#32) ∧
  (∀ (cfg : Cfg) (p : List Byte) (i : RegIdx), (seedBank cfg (accOf cfg p))[i] ≠ 0#32)

/-- R105: exactly when two Registers get the same seed; under `wf(Cfg)` no two do; and the example of a collision without item
6. -/
def Obligations.WhenTwoSeedsCollide : Prop :=
  (∀ (cfg : Cfg) (acc : Word) (i j : RegIdx), i ≠ j →
    (seed cfg acc i = seed cfg acc j ↔
      cfg.K i = cfg.K j ∨ (cfg.K i ^^^ cfg.K j = 1#32 ∧ (acc = cfg.K i ∨ acc = cfg.K j)))) ∧
  (∀ (cfg : Cfg) (acc : Word) (i j : RegIdx), cfg.wf → i ≠ j → seed cfg acc i ≠ seed cfg acc j) ∧
  (∀ cfg : Cfg, cfg.c = 1#32 → seed cfg 0#32 0 = 1#32 ∧ seed cfg 0#32 1 = 1#32)

/-- R8 item 5: `C mod 2^29` is not zero exactly when the eleven `K[i]` are pairwise different. -/
def Obligations.ItemFiveMakesTheConstantsDiffer : Prop :=
  ∀ cfg : Cfg, cfg.cNotMultiple ↔ ∀ i j : RegIdx, i ≠ j → cfg.K i ≠ cfg.K j

/-- R9: the reference configuration is well-formed and its `K[i]` are the ones listed. -/
def Obligations.ReferenceConfigurationIsWellFormed : Prop :=
  Cfg.ref.wf ∧
  (Vector.ofFn fun i => Cfg.ref.K i) = #v[0x00000000#32, 0x9E3779B9#32, 0x3C6EF372#32, 0xDAA66D2B#32, 0x78DDE6E4#32,
    0x1715609D#32, 0xB54CDA56#32, 0x5384540F#32, 0xF1BBCDC8#32, 0x8FF34781#32, 0x2E2AC13A#32]

/-- R109: two passphrases of one length that differ in exactly one byte give different accumulators, and seeds that can agree
only where one XOR is 0 and the other 1. -/
def Obligations.OneByteChangesTheAccumulator : Prop :=
  ∀ (cfg : Cfg) (before after : List Byte) (x y : Byte), x ≠ y →
    let a := accOf cfg (before ++ x :: after)
    let b := accOf cfg (before ++ y :: after)
    a ≠ b ∧ ∀ i : RegIdx, a ^^^ cfg.K i ≠ b ^^^ cfg.K i ∧
      (seed cfg a i = seed cfg b i →
        (a ^^^ cfg.K i = 0#32 ∧ b ^^^ cfg.K i = 1#32) ∨ (a ^^^ cfg.K i = 1#32 ∧ b ^^^ cfg.K i = 0#32))

/-- R65, R101, R108, R202 a: `KEY p` on any running core (no `RST` needed, R203) answers every command with success and loads the
seeds of `p`, the accumulator gone; if `p` is empty, provided the configuration accepts it. -/
def Obligations.KeyLoadsTheSeedsOfThePassphrase : Prop :=
  ∀ (s : State) (p : List Byte), s.fault = none →
    ∃ t rs, runCommands (Pseudo.key p).expand s = some (t, rs) ∧
      ((p ≠ [] ∨ coreCfg.rejectEmpty = false) →
        rs = List.replicate (p.length + 2) ⟨0#4, 0#32⟩ ∧
        (∀ i : RegIdx, t.S[i] = some (seed coreCfg (accOf coreCfg p) i)) ∧
        t.acc = none ∧ t.accn = false ∧ t.fault = none ∧ t.host = s.host)

/-- R86, R202 b: eleven `LDS`, one per index in any order, each seed nonzero, key a running core and leave everything else as it
was. -/
def Obligations.ElevenLdsKeyTheCore : Prop :=
  ∀ (s : State) (seeds : Bank) (order : List RegIdx), s.fault = none → order.Perm (List.finRange NREG) →
    (∀ i : RegIdx, seeds[i] ≠ 0#32) →
    ∃ t rs, runCommands (order.map fun i => .lds (BitVec.ofNat 4 i.val) seeds[i]) s = some (t, rs) ∧
      rs = List.replicate 11 ⟨0#4, 0#32⟩ ∧ (∀ i : RegIdx, t.S[i] = some seeds[i]) ∧ t.V = 0x7FF#11 ∧
      t.acc = s.acc ∧ t.accn = s.accn ∧ t.fault = none ∧ t.host = s.host

/-! ## The Combiner -/

/-- R130: the selector's formula, its reading as a multiplexer, its eight rows and its polynomial. -/
def Obligations.SelectIsTheGeffeSelector : Prop :=
  (∀ c a b : Bool, select c a b = ((c && a) ^^ (!c && b)) ∧ select true a b = a ∧ select false a b = b ∧
    select c a b = ((c && a) ^^ (c && b) ^^ b)) ∧
  select false false false = false ∧ select false false true = true ∧ select false true false = false ∧
  select false true true = true ∧ select true false false = false ∧ select true false true = false ∧
  select true true false = true ∧ select true true true = true

/-- R132: the polynomial of `combine`, that it is balanced, its two end values, the two linear inputs, and the complete truth
table, word `w` bit `j` being `combine(32 w + j)`. -/
def Obligations.CombineFacts : Prop :=
  (∀ b : Bits11, combine b =
    ((b.getLsbD 0 && b.getLsbD 1) ^^ (b.getLsbD 0 && b.getLsbD 2) ^^ b.getLsbD 2 ^^
     (b.getLsbD 3 && b.getLsbD 4) ^^ (b.getLsbD 3 && b.getLsbD 5) ^^ b.getLsbD 5 ^^
     (b.getLsbD 6 && b.getLsbD 7) ^^ (b.getLsbD 6 && b.getLsbD 8) ^^ b.getLsbD 8 ^^ b.getLsbD 9 ^^ b.getLsbD 10)) ∧
  ((List.range 2048).countP fun n => combine (BitVec.ofNat 11 n)) = 1024 ∧
  combine 0#11 = false ∧ combine 0x7FF#11 = true ∧
  (∀ b : Bits11, combine (b ^^^ 0x200#11) = !combine b ∧ combine (b ^^^ 0x400#11) = !combine b) ∧
  (∀ w j : Nat, w < 64 → j < 32 →
    combine (BitVec.ofNat 11 (32 * w + j)) = ((combineTable[w]?).getD 0#32).getLsbD j)

/-! ## The Bank, the Assembler and the XOR stage -/

/-- R47: stepping the Registers one after another in any order, each collecting its bit in its place, gives the bank and the bits
of one clock. -/
def Obligations.StepOrderDoesNotMatter : Prop :=
  ∀ (cfg : Cfg) (B : Bank) (bits : Vector Bool NREG) (order : List RegIdx), order.Perm (List.finRange NREG) →
    (stepInOrder cfg order (B, bits)).1 = (stepAll cfg B).1 ∧
    ∀ i : RegIdx, (stepInOrder cfg order (B, bits)).2[i] = (stepAll cfg B).2.getLsbD i.val

/-- R123: eight `CLK` leave the core in the state one `NEXTB` leaves it in, and their eight combined bits, first to last, are bits
7 down to 0 of its byte; and for any mixture of keystream commands the bank depends on the total number of clocks only. -/
def Obligations.EightClocksAreOneByte : Prop :=
  (∀ (s : State) (B : Bank), s.fault = none → (∀ i : RegIdx, s.S[i] = some B[i]) →
    ∃ t u rs d, runCommands (List.replicate 8 .clk) s = some (t, rs) ∧ exec .nextb s = .next u ∧
      u.rsp = some ⟨0#4, d⟩ ∧ t.S = u.S ∧ t.acc = u.acc ∧ t.accn = u.accn ∧ t.fault = u.fault ∧ t.host = u.host ∧
      rs.length = 8 ∧ ∀ (n : Nat) (r : Response), rs[n]? = some r → r.dout.getLsbD 11 = d.getLsbD (7 - n)) ∧
  (∀ (s : State) (B : Bank) (is : List Instr), s.fault = none → (∀ i : RegIdx, s.S[i] = some B[i]) →
    (∀ i ∈ is, 0 < clocks i) →
    ∃ t rs, runCommands is s = some (t, rs) ∧
      ∀ i : RegIdx, t.S[i] = some (bankAfter coreCfg B (is.map clocks).sum)[i])

/-- R140, R141: keystream byte `k` is built from bank clocks `8k` to `8k + 7`, first clock to bit 7, and the bank is then `8`
clocks further. -/
def Obligations.KeystreamByteIsEightClocks : Prop :=
  ∀ (cfg : Cfg) (B : Bank),
    (nextByte cfg B).1 = bankAfter cfg B 8 ∧
    ∀ k n : Nat, n < 8 → (keyByte cfg B k).getLsbD (7 - n) = keyBit cfg B (8 * k + n)

/-- R143: the packing test: from any bank the first combined bit is bit 7 of the next byte and the eighth is bit 0; and on the
reference configuration every Register seeded to 1 gives the byte 0xF6. -/
def Obligations.PackingTestGivesF6 : Prop :=
  (∀ (cfg : Cfg) (B : Bank), (nextByte cfg B).2.getLsbD 7 = keyBit cfg B 0 ∧
    (nextByte cfg B).2.getLsbD 0 = keyBit cfg B 7) ∧
  (nextByte Cfg.ref (Vector.replicate NREG 1#32)).2 = 0xF6#8

/-- R151: involution. Keying with `p` and transforming `m`, then keying with `p` again, on that core or on any other running core,
and transforming the result gives `m` back. That another core has the same configuration is the model's choice (log 13); for one
core it is the rule's. -/
def Obligations.TransformTwiceIsTheIdentity : Prop :=
  ∀ (s s' : State) (p m : List Byte), s.fault = none → s'.fault = none → (p ≠ [] ∨ coreCfg.rejectEmpty = false) →
    ∃ t u cs, runCommands ((Pseudo.key p).expand ++ (Pseudo.xors m).expand) s =
        some (t, List.replicate (p.length + 2) ⟨0#4, 0#32⟩ ++ cs.map fun c : Byte => ⟨0#4, c.setWidth 32⟩) ∧
      cs.length = m.length ∧
      runCommands ((Pseudo.key p).expand ++ (Pseudo.xors cs).expand) s' =
        some (u, List.replicate (p.length + 2) ⟨0#4, 0#32⟩ ++ m.map fun b : Byte => ⟨0#4, b.setWidth 32⟩) ∧
      t.S = u.S

/-- R43, R150, R152: a stream of `n` bytes takes `n` `XORB` commands and `8n` bank clocks and gives `n` bytes: output byte `k` is
input byte `k` XOR keystream byte `k`; for `n = 0` nothing happens. -/
def Obligations.StreamLengthIsPreserved : Prop :=
  ∀ (s : State) (B : Bank) (m : List Byte), s.fault = none → (∀ i : RegIdx, s.S[i] = some B[i]) →
    ∃ t rs, runCommands (Pseudo.xors m).expand s = some (t, rs) ∧ rs.length = m.length ∧
      (∀ i : RegIdx, t.S[i] = some (bankAfter coreCfg B (8 * m.length))[i]) ∧
      (∀ (k : Nat) (b : Byte), m[k]? = some b →
        rs[k]? = some ⟨0#4, (b ^^^ keyByte coreCfg B k).setWidth 32⟩) ∧
      (m = [] → t = s)

/-! ## Runs, cores and what cannot be seen -/

/-- R50: in a system of several cores, any interleaving of their steps leaves each core in the state it reaches alone. -/
def Obligations.CoresDoNotInteract : Prop :=
  ∀ (schedule : List Nat) (cores : List State) (k : Nat) (s : State), cores[k]? = some s →
    ∃ t, Sys2Proof.core.run (schedule.count k) s = .next t ∧
      (schedule.foldl (fun cs j => stepCore j cs) cores)[k]? = some t

/-- R204: a run with no `RST` that ends with `FAULT = 0` had no response with a nonzero `STATUS`. -/
def Obligations.SuccessfulRunHadNoFault : Prop :=
  ∀ (ws : List CmdWord) (s t : State) (rs : List Response), (∀ w ∈ ws, w ≠ rstWord) → run ws s = some (t, rs) →
    t.successful → ∀ r ∈ rs, r.status = 0#4

/-- R29: the accumulator is observable only through the seeds: two cores that differ only in the value of `ACC` answer every word
but `KSEED` alike and go on differing in nothing else. -/
def Obligations.AccumulatorIsSeenOnlyThroughSeeds : Prop :=
  ∀ (s : State) (a b : Word) (w : CmdWord), decode w ≠ .ok .kseed →
    ∃ (t : State) (x y : Option Word), execWord w { s with acc := some a } = .next { t with acc := x } ∧
      execWord w { s with acc := some b } = .next { t with acc := y } ∧ x.isSome = y.isSome
end

