-- ==== Sys2Proof/Laws/Encoding.lean ====
section
/-! SUPPORT. The fields of a command word put together and taken apart (rules R55, R59). -/

namespace Sys2Proof

@[simp] theorem opOf_mkWord (op idx : Nibble) (imm : Word) : opOf (mkWord op idx imm) = op := by
  simp only [opOf, mkWord]
  rw [BitVec.extractLsb'_append_eq_of_le (by decide), BitVec.extractLsb'_append_eq_of_le (by decide)]
  simp

@[simp] theorem idxOf_mkWord (op idx : Nibble) (imm : Word) : idxOf (mkWord op idx imm) = idx := by
  simp only [idxOf, mkWord]
  rw [BitVec.extractLsb'_append_eq_of_le (by decide), BitVec.extractLsb'_append_eq_of_add_le (by decide)]
  simp

@[simp] theorem immOf_mkWord (op idx : Nibble) (imm : Word) : immOf (mkWord op idx imm) = imm := by
  simp only [immOf, mkWord]
  rw [BitVec.extractLsb'_append_eq_of_add_le (by decide)]
  simp

/-- A word is what its fields spell (R55). -/
theorem mkWord_fields (w : CmdWord) : mkWord (opOf w) (idxOf w) (immOf w) = w := by
  simp only [mkWord, opOf, idxOf, immOf]
  apply BitVec.eq_of_getLsbD_eq
  intro k hk
  simp only [BitVec.getLsbD_append, BitVec.getLsbD_extractLsb']
  split
  · simp [*]
  · split
    · have : 32 + (k - 32) = k := by omega
      simp [*]
    · have : 36 + (k - 32 - 4) = k := by omega
      simp [*]
      omega

/-- Masking a word masks its fields (R58). -/
theorem mkWord_and (op idx op' idx' : Nibble) (imm imm' : Word) :
    mkWord op idx imm &&& mkWord op' idx' imm' = mkWord (op &&& op') (idx &&& idx') (imm &&& imm') := by
  unfold mkWord
  exact (BitVec.and_append (w := 8) (v := 32)).trans (congrArg (· ++ (imm &&& imm')) BitVec.and_append)

/-- A word whose `op`, `idx` and `imm` are those of another is that word (R55). -/
theorem word_ext {v w : CmdWord} (hop : opOf v = opOf w) (hidx : idxOf v = idxOf w) (himm : immOf v = immOf w) :
    v = w := by
  rw [← mkWord_fields v, ← mkWord_fields w, hop, hidx, himm]

/-- The fields of a word as numbers (R55). -/
theorem opOf_toNat (w : CmdWord) : (opOf w).toNat = w.toNat / 2 ^ 36 := by
  have := w.isLt
  simp only [opOf, BitVec.extractLsb'_toNat, Nat.shiftRight_eq_div_pow]
  omega

theorem idxOf_toNat (w : CmdWord) : (idxOf w).toNat = w.toNat / 2 ^ 32 % 16 := by
  simp [idxOf, BitVec.extractLsb'_toNat, Nat.shiftRight_eq_div_pow]

theorem immOf_toNat (w : CmdWord) : (immOf w).toNat = w.toNat % 2 ^ 32 := by
  simp [immOf, BitVec.extractLsb'_toNat]

/-- The operands of a word as numbers (R59). -/
theorem imm8Of_eq (w : CmdWord) : imm8Of w = BitVec.ofNat 8 (immOf w).toNat := by
  apply BitVec.eq_of_toNat_eq
  simp [imm8Of]

theorem imm11Of_eq (w : CmdWord) : imm11Of w = BitVec.ofNat 11 (immOf w).toNat := by
  apply BitVec.eq_of_toNat_eq
  simp [imm11Of]

theorem legalIdx_iff (idx : Nibble) : legalIdx idx = true ↔ idx.toNat ≤ 10 := by
  simp only [legalIdx, NREG, decide_eq_true_eq]
  omega

/-- What each format asks of a word, field by field (R56). -/
theorem formatError_Z_iff (w : CmdWord) : formatError .Z w = none ↔ (idxOf w).toNat = 0 ∧ (immOf w).toNat = 0 := by
  simp only [formatError, ← BitVec.toNat_inj, ne_eq, BitVec.toNat_ofNat]
  split_ifs <;> simp_all

theorem formatError_B_iff (w : CmdWord) : formatError .B w = none ↔ (idxOf w).toNat = 0 ∧ (immOf w).toNat < 256 := by
  have h : ((immOf w).extractLsb' 8 24).toNat = 0 ↔ (immOf w).toNat < 256 := by
    have := (immOf w).isLt
    rw [BitVec.extractLsb'_toNat, Nat.shiftRight_eq_div_pow]
    omega
  simp only [formatError, ← BitVec.toNat_inj, ne_eq, BitVec.toNat_ofNat, Nat.zero_mod, h]
  split_ifs <;> simp_all

theorem formatError_R_iff (w : CmdWord) : formatError .R w = none ↔ (idxOf w).toNat ≤ 10 ∧ (immOf w).toNat = 0 := by
  rw [← legalIdx_iff]
  simp only [formatError, ← BitVec.toNat_inj, ne_eq, BitVec.toNat_ofNat]
  split_ifs <;> simp_all

theorem formatError_RI_iff (w : CmdWord) : formatError .RI w = none ↔ (idxOf w).toNat ≤ 10 := by
  rw [← legalIdx_iff]
  simp only [formatError]
  split_ifs <;> simp_all

theorem formatError_T_iff (w : CmdWord) : formatError .T w = none ↔ (idxOf w).toNat = 0 ∧ (immOf w).toNat < 2048 := by
  have h : ((immOf w).extractLsb' 11 21).toNat = 0 ↔ (immOf w).toNat < 2048 := by
    have := (immOf w).isLt
    rw [BitVec.extractLsb'_toNat, Nat.shiftRight_eq_div_pow]
    omega
  simp only [formatError, ← BitVec.toNat_inj, ne_eq, BitVec.toNat_ofNat, Nat.zero_mod, h]
  split_ifs <;> simp_all

/-- A word is accepted as the command `i` exactly when it keeps the format of `i` (R60). -/
theorem checkedAs_ok_iff (i j : Instr) (w : CmdWord) :
    checkedAs i w = .ok j ↔ i = j ∧ formatError i.format w = none := by
  unfold checkedAs
  split <;> simp_all

end Sys2Proof
end

