-- ==== Sys2Proof/Laws/State.lean ====
section
/-! SUPPORT. One lemma per field of `State` and per operation of Machine/Ops.lean that updates it, so that no proof unfolds a record
update. -/

namespace Sys2Proof.Machine

@[simp] theorem State.writeReg_S (s : State) (i : RegIdx) (v : Word) : (s.writeReg i v).S = s.S.set i.val (some v) i.isLt := rfl
@[simp] theorem State.writeReg_acc (s : State) (i : RegIdx) (v : Word) : (s.writeReg i v).acc = s.acc := rfl
@[simp] theorem State.writeReg_accn (s : State) (i : RegIdx) (v : Word) : (s.writeReg i v).accn = s.accn := rfl
@[simp] theorem State.writeReg_fault (s : State) (i : RegIdx) (v : Word) : (s.writeReg i v).fault = s.fault := rfl
@[simp] theorem State.writeReg_rsp (s : State) (i : RegIdx) (v : Word) : (s.writeReg i v).rsp = s.rsp := rfl
@[simp] theorem State.writeReg_host (s : State) (i : RegIdx) (v : Word) : (s.writeReg i v).host = s.host := rfl

@[simp] theorem State.writeBank_S (s : State) (B : Bank) : (s.writeBank B).S = Vector.ofFn fun i => some B[i] := rfl
@[simp] theorem State.writeBank_acc (s : State) (B : Bank) : (s.writeBank B).acc = s.acc := rfl
@[simp] theorem State.writeBank_accn (s : State) (B : Bank) : (s.writeBank B).accn = s.accn := rfl
@[simp] theorem State.writeBank_fault (s : State) (B : Bank) : (s.writeBank B).fault = s.fault := rfl
@[simp] theorem State.writeBank_rsp (s : State) (B : Bank) : (s.writeBank B).rsp = s.rsp := rfl
@[simp] theorem State.writeBank_host (s : State) (B : Bank) : (s.writeBank B).host = s.host := rfl

@[simp] theorem State.writeAcc_S (s : State) (v : Word) : (s.writeAcc v).S = s.S := rfl
@[simp] theorem State.writeAcc_acc (s : State) (v : Word) : (s.writeAcc v).acc = some v := rfl
@[simp] theorem State.writeAcc_accn (s : State) (v : Word) : (s.writeAcc v).accn = s.accn := rfl
@[simp] theorem State.writeAcc_fault (s : State) (v : Word) : (s.writeAcc v).fault = s.fault := rfl
@[simp] theorem State.writeAcc_rsp (s : State) (v : Word) : (s.writeAcc v).rsp = s.rsp := rfl
@[simp] theorem State.writeAcc_host (s : State) (v : Word) : (s.writeAcc v).host = s.host := rfl

@[simp] theorem State.clearAcc_S (s : State) : (s.clearAcc).S = s.S := rfl
@[simp] theorem State.clearAcc_acc (s : State) : (s.clearAcc).acc = none := rfl
@[simp] theorem State.clearAcc_accn (s : State) : (s.clearAcc).accn = s.accn := rfl
@[simp] theorem State.clearAcc_fault (s : State) : (s.clearAcc).fault = s.fault := rfl
@[simp] theorem State.clearAcc_rsp (s : State) : (s.clearAcc).rsp = s.rsp := rfl
@[simp] theorem State.clearAcc_host (s : State) : (s.clearAcc).host = s.host := rfl

@[simp] theorem State.writeAccn_S (s : State) (b : Bool) : (s.writeAccn b).S = s.S := rfl
@[simp] theorem State.writeAccn_acc (s : State) (b : Bool) : (s.writeAccn b).acc = s.acc := rfl
@[simp] theorem State.writeAccn_accn (s : State) (b : Bool) : (s.writeAccn b).accn = b := rfl
@[simp] theorem State.writeAccn_fault (s : State) (b : Bool) : (s.writeAccn b).fault = s.fault := rfl
@[simp] theorem State.writeAccn_rsp (s : State) (b : Bool) : (s.writeAccn b).rsp = s.rsp := rfl
@[simp] theorem State.writeAccn_host (s : State) (b : Bool) : (s.writeAccn b).host = s.host := rfl

@[simp] theorem State.respond_S (s : State) (d : Word) : (s.respond d).S = s.S := rfl
@[simp] theorem State.respond_acc (s : State) (d : Word) : (s.respond d).acc = s.acc := rfl
@[simp] theorem State.respond_accn (s : State) (d : Word) : (s.respond d).accn = s.accn := rfl
@[simp] theorem State.respond_fault (s : State) (d : Word) : (s.respond d).fault = s.fault := rfl
@[simp] theorem State.respond_rsp (s : State) (d : Word) : (s.respond d).rsp = some ⟨0#4, d⟩ := rfl
@[simp] theorem State.respond_host (s : State) (d : Word) : (s.respond d).host = s.host := rfl

@[simp] theorem State.raise_S (s : State) (f : Fault) : (s.raise f).S = s.S := rfl
@[simp] theorem State.raise_acc (s : State) (f : Fault) : (s.raise f).acc = s.acc := rfl
@[simp] theorem State.raise_accn (s : State) (f : Fault) : (s.raise f).accn = s.accn := rfl
@[simp] theorem State.raise_fault (s : State) (f : Fault) : (s.raise f).fault = some f := rfl
@[simp] theorem State.raise_rsp (s : State) (f : Fault) : (s.raise f).rsp = some ⟨f.code, 0#32⟩ := rfl
@[simp] theorem State.raise_host (s : State) (f : Fault) : (s.raise f).host = s.host := rfl

@[simp] theorem State.suppress_S (s : State) : (s.suppress).S = s.S := rfl
@[simp] theorem State.suppress_acc (s : State) : (s.suppress).acc = s.acc := rfl
@[simp] theorem State.suppress_accn (s : State) : (s.suppress).accn = s.accn := rfl
@[simp] theorem State.suppress_fault (s : State) : (s.suppress).fault = s.fault := rfl
@[simp] theorem State.suppress_rsp (s : State) : (s.suppress).rsp = some ⟨s.FAULT, 0#32⟩ := rfl
@[simp] theorem State.suppress_host (s : State) : (s.suppress).host = s.host := rfl

@[simp] theorem State.restart_S (s : State) : (s.restart).S = Vector.replicate NREG none := rfl
@[simp] theorem State.restart_acc (s : State) : (s.restart).acc = none := rfl
@[simp] theorem State.restart_accn (s : State) : (s.restart).accn = false := rfl
@[simp] theorem State.restart_fault (s : State) : (s.restart).fault = none := rfl
@[simp] theorem State.restart_rsp (s : State) : (s.restart).rsp = none := rfl
@[simp] theorem State.restart_host (s : State) : (s.restart).host = s.host := rfl

@[simp] theorem State.issueNext_S (s : State) (w : CmdWord) : (s.issueNext w).S = s.S := rfl
@[simp] theorem State.issueNext_acc (s : State) (w : CmdWord) : (s.issueNext w).acc = s.acc := rfl
@[simp] theorem State.issueNext_accn (s : State) (w : CmdWord) : (s.issueNext w).accn = s.accn := rfl
@[simp] theorem State.issueNext_fault (s : State) (w : CmdWord) : (s.issueNext w).fault = s.fault := rfl
@[simp] theorem State.issueNext_rsp (s : State) (w : CmdWord) : (s.issueNext w).rsp = s.rsp := rfl
@[simp] theorem State.issueNext_host (s : State) (w : CmdWord) : (s.issueNext w).host = .issue w :: s.host := rfl

end Sys2Proof.Machine
end

