-- ==== Sys2Proof/Laws/Ops.lean ====
section
/-! SUPPORT. What each shared operation of Machine/Ops.lean, Flags.lean and Operands.lean does, said once. -/

namespace Sys2Proof.Machine

theorem coreCfg_wf : coreCfg.wf := Config.core.wf

theorem State.halted_eq_false_iff (s : State) : s.halted = false ↔ s.fault = none := by
  simp [State.halted]

theorem State.unlessHalted_running {s : State} (h : s.fault = none) (f : State → State) :
    s.unlessHalted f = f s := by
  simp [State.unlessHalted, State.halted, h]

theorem State.unlessHalted_halted {s : State} {x : Fault} (h : s.fault = some x) (f : State → State) :
    s.unlessHalted f = { s with rsp := some ⟨x.code, 0#32⟩ } := by
  simp [State.unlessHalted, State.halted, State.suppress, State.FAULT, h]

/-- A command on a core either is suppressed, the core being halted, or is performed, the core running (R173, R175). -/
theorem State.unlessHalted_cases (s : State) (f : State → State) :
    (∃ x, s.fault = some x ∧ s.unlessHalted f = { s with rsp := some ⟨x.code, 0#32⟩ }) ∨
      (s.fault = none ∧ s.unlessHalted f = f s) := by
  rcases Option.eq_none_or_eq_some s.fault with h | ⟨x, h⟩
  · exact .inr ⟨h, State.unlessHalted_running h f⟩
  · exact .inl ⟨x, h, State.unlessHalted_halted h f⟩

theorem State.writeReg_same (s : State) (i : RegIdx) (v : Word) : (s.writeReg i v).S[i] = some v := by
  simp

theorem State.writeReg_other (s : State) {i j : RegIdx} (v : Word) (h : j ≠ i) :
    (s.writeReg i v).S[j] = s.S[j] := by
  have : i.val ≠ j.val := fun e => h (Fin.ext e.symm)
  simp [this]

theorem State.writeBank_get (s : State) (B : Bank) (i : RegIdx) : (s.writeBank B).S[i] = some B[i] := by
  simp

/-- The bank of a core is `B` exactly when every Register `i` holds `B[i]` (R122). -/
theorem State.bank_eq_some_iff (s : State) (B : Bank) :
    s.bank = some B ↔ ∀ i : RegIdx, s.S[i] = some B[i] := by
  unfold State.bank
  split
  · next h =>
    simp only [Option.some.injEq]
    constructor
    · rintro rfl i
      simp
    · intro hB
      ext j hj
      have := hB ⟨j, hj⟩
      simp only [Fin.getElem_fin] at this
      simp [this]
  · next h =>
    simp only [reduceCtorEq, false_iff]
    exact fun hB => h fun i => by rw [hB i]; rfl

/-- A core has no bank exactly when some Register holds no value (R172). -/
theorem State.bank_eq_none_iff (s : State) : s.bank = none ↔ ∃ i : RegIdx, s.S[i] = none := by
  unfold State.bank
  split
  · next h =>
    simp only [reduceCtorEq, false_iff, not_exists]
    exact fun i hi => by simpa [hi] using h i
  · next h =>
    simp only [true_iff]
    simpa [State.keyed] using h

theorem State.withBank_keyed {s : State} {B : Bank} (h : ∀ i : RegIdx, s.S[i] = some B[i]) (f : Bank → State) :
    s.withBank f = f B := by
  simp [State.withBank, (s.bank_eq_some_iff B).2 h]

theorem State.withBank_unkeyed {s : State} (h : ∃ i : RegIdx, s.S[i] = none) (f : Bank → State) :
    s.withBank f = s.raise .unkeyed := by
  simp [State.withBank, s.bank_eq_none_iff.2 h]

theorem regIdx_eq_some_iff (idx : Nibble) (i : RegIdx) : regIdx idx = some i ↔ idx.toNat = i.val := by
  unfold regIdx
  split
  · simp [Fin.ext_iff]
  · next h =>
    simp only [reduceCtorEq, false_iff]
    exact fun e => h (e ▸ i.isLt)

theorem regIdx_ofNat (i : RegIdx) : regIdx (BitVec.ofNat 4 i.val) = some i := by
  rw [regIdx_eq_some_iff, BitVec.toNat_ofNat]
  have : i.val < 11 := i.isLt
  omega

theorem regIdx_eq_none_iff (idx : Nibble) : regIdx idx = none ↔ NREG ≤ idx.toNat := by
  unfold regIdx
  split <;> simp <;> omega

theorem State.withReg_legal {s : State} {idx : Nibble} {i : RegIdx} (h : regIdx idx = some i) (f : RegIdx → State) :
    s.withReg idx f = f i := by
  simp [State.withReg, h]

theorem State.withReg_illegal {s : State} {idx : Nibble} (h : NREG ≤ idx.toNat) (f : RegIdx → State) :
    s.withReg idx f = s.raise .illegal := by
  simp [State.withReg, (regIdx_eq_none_iff idx).2 h]

@[simp] theorem State.V_getLsbD (s : State) (i : RegIdx) : s.V.getLsbD i.val = s.S[i].isSome := by
  simp [State.V]

/-- One clock, Register by Register (R120). -/
theorem stepAll_bank (cfg : Cfg) (B : Bank) (i : RegIdx) :
    (stepAll cfg B).1[i] = (lfsrStep cfg.mask[i] B[i]).1 := by
  simp [stepAll]

/-- The fresh bits of one clock are the low bits of the old states (R120). -/
theorem stepAll_bits (cfg : Cfg) (B : Bank) (i : RegIdx) :
    (stepAll cfg B).2.getLsbD i.val = B[i].getLsbD 0 := by
  simp [stepAll, lfsrStep]

end Sys2Proof.Machine
end

