-- ==== Sys2Proof/Laws/Meanings.lean ====
section
/-! SUPPORT. What each command does on a running core, case by case, so that no proof unfolds a meaning twice (rules R86, R87, R106 to
R108, R122, R133, R142, R150). -/

namespace Sys2Proof.Machine

theorem lds_zero {idx : Nibble} {i : RegIdx} (h : regIdx idx = some i) (s : State) :
    lds idx 0#32 s = s.raise .zeroseed := by
  simp [lds, State.withReg_legal h]

theorem lds_nonzero {idx : Nibble} {i : RegIdx} {v : Word} (h : regIdx idx = some i) (hv : v ≠ 0#32) (s : State) :
    lds idx v s = (s.writeReg i v).respond 0#32 := by
  simp [lds, State.withReg_legal h, hv]

theorem lds_illegal {idx : Nibble} (h : NREG ≤ idx.toNat) (v : Word) (s : State) : lds idx v s = s.raise .illegal :=
  State.withReg_illegal h _

theorem rds_none {idx : Nibble} {i : RegIdx} {s : State} (h : regIdx idx = some i) (hs : s.S[i] = none) :
    rds idx s = s.raise .unkeyed := by
  simp only [rds, State.withReg_legal h, State.readReg, hs]

theorem rds_some {idx : Nibble} {i : RegIdx} {s : State} {v : Word} (h : regIdx idx = some i) (hs : s.S[i] = some v) :
    rds idx s = s.respond v := by
  simp only [rds, State.withReg_legal h, State.readReg, hs]

theorem rds_illegal {idx : Nibble} (h : NREG ≤ idx.toNat) (s : State) : rds idx s = s.raise .illegal :=
  State.withReg_illegal h _

theorem kabs_none {s : State} (h : s.acc = none) (b : Byte) : kabs b s = s.raise .noacc := by
  simp only [kabs, h]

theorem kabs_some {s : State} {a : Word} (h : s.acc = some a) (b : Byte) :
    kabs b s = ((s.writeAcc (absorb a b)).writeAccn true).respond 0#32 := by
  simp only [kabs, h]

theorem kseed_none {s : State} (h : s.acc = none) (cfg : Cfg) : kseed cfg s = s.raise .noacc := by
  simp only [kseed, h]

theorem kseed_empty {cfg : Cfg} {s : State} {a : Word} (h : s.acc = some a) (hr : cfg.rejectEmpty = true)
    (hn : s.accn = false) : kseed cfg s = s.raise .emptykey := by
  simp [kseed, h, hr, hn]

theorem kseed_some {cfg : Cfg} {s : State} {a : Word} (h : s.acc = some a)
    (hn : cfg.rejectEmpty = false ∨ s.accn = true) :
    kseed cfg s = (((s.writeBank (seedBank cfg a)).clearAcc).writeAccn false).respond 0#32 := by
  rcases hn with hn | hn <;> simp [kseed, h, hn]

theorem clk_unkeyed {s : State} (h : ∃ i : RegIdx, s.S[i] = none) (cfg : Cfg) : clk cfg s = s.raise .unkeyed :=
  State.withBank_unkeyed h _

theorem clk_keyed {s : State} {B : Bank} (h : ∀ i : RegIdx, s.S[i] = some B[i]) (cfg : Cfg) :
    clk cfg s = (s.writeBank (stepAll cfg B).1).respond (packClock (combine (stepAll cfg B).2) (stepAll cfg B).2) :=
  State.withBank_keyed h _

theorem nextb_unkeyed {s : State} (h : ∃ i : RegIdx, s.S[i] = none) (cfg : Cfg) : nextb cfg s = s.raise .unkeyed :=
  State.withBank_unkeyed h _

theorem nextb_keyed {s : State} {B : Bank} (h : ∀ i : RegIdx, s.S[i] = some B[i]) (cfg : Cfg) :
    nextb cfg s = (s.writeBank (nextByte cfg B).1).respond (zextByte (nextByte cfg B).2) :=
  State.withBank_keyed h _

theorem xorb_unkeyed {s : State} (h : ∃ i : RegIdx, s.S[i] = none) (cfg : Cfg) (b : Byte) :
    xorb cfg b s = s.raise .unkeyed :=
  State.withBank_unkeyed h _

theorem xorb_keyed {s : State} {B : Bank} (h : ∀ i : RegIdx, s.S[i] = some B[i]) (cfg : Cfg) (b : Byte) :
    xorb cfg b s = (s.writeBank (nextByte cfg B).1).respond (zextByte (b ^^^ (nextByte cfg B).2)) :=
  State.withBank_keyed h _

/-- Either some Register holds no value, or the eleven values make a bank (R122). -/
theorem State.unkeyed_or_keyed (s : State) :
    (∃ i : RegIdx, s.S[i] = none) ∨ ∃ B : Bank, ∀ i : RegIdx, s.S[i] = some B[i] := by
  rcases h : s.bank with _ | B
  · exact .inl (s.bank_eq_none_iff.1 h)
  · exact .inr ⟨B, (s.bank_eq_some_iff B).1 h⟩

/-- A bank that is written back can be read again (R108, R122). -/
theorem State.writeBank_keyed (s : State) (B : Bank) (i : RegIdx) : (s.writeBank B).S[i] = some B[i] := by
  simp

/-- The Assembler's loop runs the bank through its clocks (R140). -/
theorem assemble_bank (cfg : Cfg) (n : Nat) (B : Bank) (byte : Byte) :
    (assemble cfg n B byte).1 = bankAfter cfg B n := by
  induction n generalizing B byte with
  | zero => rfl
  | succ n ih =>
    rw [assemble, ih]
    clear ih
    induction n with
    | zero => rfl
    | succ n ih => simp only [bankAfter, ih]

end Sys2Proof.Machine
end

