-- ==== Sys2Proof/Laws/PerInstr.lean ====
section
/-! SUPPORT. A statement about every command as written down, one lemma per constructor: its word is an instance of its row of
opcode_table.json (rules R55, R56, R58). -/

namespace Sys2Proof.Laws.TableRow

/-- The opcode table has a row with the command's mnemonic and format, and the command's word has the row's fixed bits
(R58). -/
def Statement (i : Instr) : Prop :=
  ∃ r ∈ opcodeTable, r.mnemonic = i.mnemonic ∧ r.format = i.format ∧ encode i &&& r.mask = r.pattern

/-- A zero-extended field has no bit above its width. -/
theorem setWidth_and_high {n : Nat} (x : BitVec n) (m : Word) (h : ∀ k < n, m.getLsbD k = false) :
    x.setWidth 32 &&& m = 0#32 := by
  apply BitVec.eq_of_getLsbD_eq
  intro k _
  by_cases hk : k < n
  · simp [h k hk]
  · simp [BitVec.getLsbD_of_ge x k (by omega)]

theorem rst : Statement .rst := ⟨⟨"RST", .Z, 0x1000000000#40, 0xFFFFFFFFFF#40⟩, by simp [opcodeTable], rfl, rfl, rfl⟩

theorem kinit : Statement .kinit := ⟨⟨"KINIT", .Z, 0x2000000000#40, 0xFFFFFFFFFF#40⟩, by simp [opcodeTable], rfl, rfl, rfl⟩

theorem kabs (b : Byte) : Statement (.kabs b) :=
  ⟨⟨"KABS", .B, mkWord 0x3#4 0#4 0#32, mkWord 0xF#4 0xF#4 0xFFFFFF00#32⟩, by simp [opcodeTable, mkWord], rfl, rfl, by
    simp only [encode, mkWord_and, setWidth_and_high b 0xFFFFFF00#32 (by decide)]; rfl⟩

theorem kseed : Statement .kseed := ⟨⟨"KSEED", .Z, 0x4000000000#40, 0xFFFFFFFFFF#40⟩, by simp [opcodeTable], rfl, rfl, rfl⟩

theorem lds (idx : Nibble) (v : Word) : Statement (.lds idx v) :=
  ⟨⟨"LDS", .RI, mkWord 0x5#4 0#4 0#32, mkWord 0xF#4 0#4 0#32⟩, by simp [opcodeTable, mkWord], rfl, rfl, by
    simp only [encode, mkWord_and, BitVec.and_zero]; rfl⟩

theorem rds (idx : Nibble) : Statement (.rds idx) :=
  ⟨⟨"RDS", .R, mkWord 0x6#4 0#4 0#32, mkWord 0xF#4 0#4 0xFFFFFFFF#32⟩, by simp [opcodeTable, mkWord], rfl, rfl, by
    simp only [encode, mkWord_and, BitVec.and_zero]; rfl⟩

theorem clk : Statement .clk := ⟨⟨"CLK", .Z, 0x7000000000#40, 0xFFFFFFFFFF#40⟩, by simp [opcodeTable], rfl, rfl, rfl⟩

theorem nextb : Statement .nextb := ⟨⟨"NEXTB", .Z, 0x8000000000#40, 0xFFFFFFFFFF#40⟩, by simp [opcodeTable], rfl, rfl, rfl⟩

theorem xorb (b : Byte) : Statement (.xorb b) :=
  ⟨⟨"XORB", .B, mkWord 0x9#4 0#4 0#32, mkWord 0xF#4 0xF#4 0xFFFFFF00#32⟩, by simp [opcodeTable, mkWord], rfl, rfl, by
    simp only [encode, mkWord_and, setWidth_and_high b 0xFFFFFF00#32 (by decide)]; rfl⟩

theorem comb (t : Bits11) : Statement (.comb t) :=
  ⟨⟨"COMB", .T, mkWord 0xA#4 0#4 0#32, mkWord 0xF#4 0xF#4 0xFFFFF800#32⟩, by simp [opcodeTable, mkWord], rfl, rfl, by
    simp only [encode, mkWord_and, setWidth_and_high t 0xFFFFF800#32 (by decide)]; rfl⟩

end Sys2Proof.Laws.TableRow
end

