-- ==== Sys2Proof/Laws/Step.lean ====
section
/-! SUPPORT. What a step can do, said once: the host's move decides (rules R13, R173, R200, R206); and the valid bits read whole (R21,
R122). -/

namespace Sys2Proof.Machine

/-- Everything a step that answers a next state can have done. -/
theorem step_cases {s t : State} (h : step s = .next t) :
    (s.host = [] ∧ t = s) ∨
    (∃ later, s.host = .wait :: later ∧ t = { s with host := later }) ∨
    (∃ later, s.host = .reset :: later ∧ t = { State.reset with host := later }) ∨
    (∃ w later, s.host = .issue w :: later ∧ execWord w { s with host := later } = .next t) := by
  unfold step State.takeMove at h
  rcases hm : s.host with _ | ⟨m, later⟩
  · rw [hm] at h
    cases h
    exact .inl ⟨rfl, rfl⟩
  · rw [hm] at h
    cases m with
    | issue w => exact .inr (.inr (.inr ⟨w, later, rfl, h⟩))
    | reset => exact .inr (.inr (.inl ⟨later, rfl, by cases h; rfl⟩))
    | wait => exact .inr (.inl ⟨later, rfl, by cases h; rfl⟩)

/-- `V = 0x7FF` exactly when every Register holds a value (R15, R122). -/
theorem State.V_eq_full_iff (s : State) : s.V = 0x7FF#11 ↔ ∀ i : RegIdx, s.S[i].isSome = true := by
  have full : ∀ i : RegIdx, (0x7FF#11).getLsbD i.val = true := by decide
  constructor
  · intro h i
    rw [← State.V_getLsbD, h]
    exact full i
  · intro h
    apply BitVec.eq_of_getLsbD_eq
    intro k hk
    exact (s.V_getLsbD ⟨k, hk⟩).trans ((h _).trans (full ⟨k, hk⟩).symm)

/-- `V` is not full exactly when some Register holds no value (R172). -/
theorem State.V_ne_full_iff (s : State) : s.V ≠ 0x7FF#11 ↔ ∃ i : RegIdx, s.S[i] = none := by
  rw [ne_eq, State.V_eq_full_iff]
  simp

/-- The valid bit a legal `idx` names (R87). -/
theorem State.V_getLsbD_regIdx (s : State) {idx : Nibble} {i : RegIdx} (h : regIdx idx = some i) :
    s.V.getLsbD idx.toNat = s.S[i].isSome := by
  rw [(regIdx_eq_some_iff idx i).1 h, State.V_getLsbD]

end Sys2Proof.Machine
end

