-- ==== Sys2Proof/Machine/Asm.lean ====
section
/-! DEFINITION. The assembler line form the spec writes its programs in (rule R64; the pseudo-commands of R65): one command per line,
the mnemonic in capitals, operands separated by a comma, `idx` in decimal, immediates in decimal or in hexadecimal with `0x`, and
`;` before a comment. What R64 leaves open (blanks, letter case of hexadecimal digits, leading zeros) is log 15; the number form of `SKIP`'s operand is
log 16. -/

namespace Sys2Proof.Machine

/-- The quotation mark. -/
def quoteChar : Char := Char.ofNat 34

/-- A space or a tab. -/
def isBlankChar (c : Char) : Bool := c = ' ' || c = Char.ofNat 9

/-- The text before the comment; a `;` inside quotation marks starts none (R64). -/
def dropComment : Bool → List Char → List Char
  | _, [] => []
  | quoted, c :: cs =>
    if c = quoteChar then c :: dropComment (!quoted) cs
    else if c = ';' && !quoted then []
    else c :: dropComment quoted cs

/-- The text without the blanks around it. -/
def trimBlanks (cs : List Char) : List Char :=
  ((cs.dropWhile isBlankChar).reverse.dropWhile isBlankChar).reverse

/-- The pieces of a text between its commas (R64). -/
def splitCommas : List Char → List (List Char)
  | [] => [[]]
  | c :: cs =>
    if c = ',' then [] :: splitCommas cs
    else match splitCommas cs with
      | [] => [[c]]
      | piece :: more => (c :: piece) :: more

/-- The value of a decimal digit. -/
def decDigit (c : Char) : Option Nat := if '0' ≤ c ∧ c ≤ '9' then some (c.toNat - 48) else none

/-- The value of a hexadecimal digit, in either case (log 15). -/
def hexDigit (c : Char) : Option Nat :=
  if '0' ≤ c ∧ c ≤ '9' then some (c.toNat - 48)
  else if 'A' ≤ c ∧ c ≤ 'F' then some (c.toNat - 55)
  else if 'a' ≤ c ∧ c ≤ 'f' then some (c.toNat - 87)
  else none

/-- A number in the given base, most significant digit first, going on from `acc`. -/
def digitsFrom (base : Nat) (digit : Char → Option Nat) : Nat → List Char → Option Nat
  | acc, [] => some acc
  | acc, c :: cs =>
    match digit c with
    | none => none
    | some d => digitsFrom base digit (acc * base + d) cs

/-- A decimal number of at least one digit (R64). -/
def decNumber : List Char → Option Nat
  | [] => none
  | c :: cs => digitsFrom 10 decDigit 0 (c :: cs)

/-- An immediate: hexadecimal with `0x`, or decimal (R64). -/
def immNumber : List Char → Option Nat
  | '0' :: 'x' :: c :: cs => digitsFrom 16 hexDigit 0 (c :: cs)
  | cs => decNumber cs

/-- A number that fits in `w` bits. -/
def fits (w : Nat) (n : Option Nat) : Option (BitVec w) :=
  match n with
  | none => none
  | some v => if v < 2 ^ w then some (BitVec.ofNat w v) else none

/-- A register index: decimal, 0..10 (R56, R64). -/
def idxOperand (cs : List Char) : Option Nibble :=
  match fits 4 (decNumber cs) with
  | none => none
  | some i => if legalIdx i then some i else none

/-- The bytes of the characters before the closing quotation mark, which ends the text (R65; log 15). -/
def quotedBytes : List Char → Option (List Byte)
  | [] => none
  | c :: cs =>
    if c = quoteChar then (if cs = [] then some [] else none)
    else match fits 8 (some c.toNat), quotedBytes cs with
      | some b, some bs => some (b :: bs)
      | _, _ => none

/-- A string operand (R65). -/
def stringOperand : List Char → Option (List Byte)
  | [] => none
  | c :: cs => if c = quoteChar then quotedBytes cs else none

/-- What one line of a program says. -/
inductive AsmLine where
  /-- Nothing, or a comment. -/
  | blank
  /-- A command (R64). -/
  | command (i : Instr)
  /-- A pseudo-command (R65). -/
  | pseudo (p : Pseudo)
deriving DecidableEq, Repr

/-- The commands a line stands for (R65). -/
def AsmLine.commands : AsmLine → List Instr
  | .blank => []
  | .command i => [i]
  | .pseudo p => p.expand

/-- A mnemonic with no operand (R64). -/
def asmPlain : List Char → Option AsmLine
  | ['R', 'S', 'T'] => some (.command .rst)
  | ['K', 'I', 'N', 'I', 'T'] => some (.command .kinit)
  | ['K', 'S', 'E', 'E', 'D'] => some (.command .kseed)
  | ['C', 'L', 'K'] => some (.command .clk)
  | ['N', 'E', 'X', 'T', 'B'] => some (.command .nextb)
  | _ => none

/-- A mnemonic with one operand (R64, R65). DESIGN CHOICE: the operand `n` of `SKIP` is read in decimal only, since R64 gives number
forms for `idx` and the immediates alone (log 16; safe). -/
def asmUnary (mnemonic operand : List Char) : Option AsmLine :=
  match mnemonic with
  | ['K', 'A', 'B', 'S'] => (fits 8 (immNumber operand)).map fun b => .command (.kabs b)
  | ['X', 'O', 'R', 'B'] => (fits 8 (immNumber operand)).map fun b => .command (.xorb b)
  | ['C', 'O', 'M', 'B'] => (fits 11 (immNumber operand)).map fun t => .command (.comb t)
  | ['R', 'D', 'S'] => (idxOperand operand).map fun i => .command (.rds i)
  | ['K', 'E', 'Y'] => (stringOperand operand).map fun p => .pseudo (.key p)
  | ['X', 'O', 'R', 'S'] => (stringOperand operand).map fun d => .pseudo (.xors d)
  | ['L', 'D', 'A', 'L', 'L'] => (fits 32 (immNumber operand)).map fun v => .pseudo (.ldall v)
  | ['S', 'K', 'I', 'P'] => (decNumber operand).map fun n => .pseudo (.skip n)
  | _ => none

/-- A mnemonic with two operands: `LDS idx, imm32` (R64). -/
def asmBinary (mnemonic first second : List Char) : Option AsmLine :=
  match mnemonic, idxOperand first, fits 32 (immNumber second) with
  | ['L', 'D', 'S'], some i, some v => some (.command (.lds i v))
  | _, _, _ => none

/-- One line of a program, or `none` when it is not of the form of R64 or R65. -/
def asmLine (line : List Char) : Option AsmLine :=
  let text := trimBlanks (dropComment false line)
  let mnemonic := text.takeWhile fun c => !isBlankChar c
  let rest := trimBlanks (text.dropWhile fun c => !isBlankChar c)
  match mnemonic, rest with
  | [], _ => some .blank
  | _, [] => asmPlain mnemonic
  | _, c :: cs =>
    if c = quoteChar then asmUnary mnemonic (c :: cs)
    else match (splitCommas (c :: cs)).map trimBlanks with
      | [x] => asmUnary mnemonic x
      | [x, y] => asmBinary mnemonic x y
      | _ => none

/-- A program, one line after another (R64). -/
def asmProgram : List (List Char) → Option (List Instr)
  | [] => some []
  | l :: ls =>
    match asmLine l, asmProgram ls with
    | some a, some is => some (a.commands ++ is)
    | _, _ => none

end Sys2Proof.Machine
end

