-- ==== Sys2Proof/Tests/Slice0.lean ====
section
/-! SUPPORT. Small tests whose expected results are the spec's own (95_test_vectors.md and the rules' examples), and for every
statement with hypotheses a named witness of them. Numbers that involve a mask, the salt or `C` are for CFG_REF (R9). -/

namespace Sys2Proof.Tests
open Sys2Proof Sys2Proof.Machine

/-! ## Well-formedness and decoding -/

theorem test_wf_refuses_lds_11 : (Instr.lds 11#4 1#32).wf = false := by decide
theorem test_wf_refuses_rds_15 : (Instr.rds 15#4).wf = false := by decide
theorem test_wf_accepts_lds_10_zero : (Instr.lds 10#4 0#32).wf = true := by decide

/-- R58's pattern of `RST`. -/
theorem test_decode_rst : decode 0b0001000000000000000000000000000000000000#40 = .ok .rst := by decide
/-- R58's pattern of `KINIT`. -/
theorem test_decode_kinit : decode 0b0010000000000000000000000000000000000000#40 = .ok .kinit := by decide
/-- R58's pattern of `KABS`, byte 0xA5. -/
theorem test_decode_kabs : decode 0b0011000000000000000000000000000010100101#40 = .ok (.kabs 0xA5#8) := by decide
/-- R58's pattern of `KSEED`. -/
theorem test_decode_kseed : decode 0b0100000000000000000000000000000000000000#40 = .ok .kseed := by decide
/-- R58's pattern of `LDS`, index 10, word 0x80000001. -/
theorem test_decode_lds : decode 0b0101101010000000000000000000000000000001#40 = .ok (.lds 10#4 0x80000001#32) := by decide
/-- R58's pattern of `RDS`, index 7. -/
theorem test_decode_rds : decode 0b0110011100000000000000000000000000000000#40 = .ok (.rds 7#4) := by decide
/-- R58's pattern of `CLK`. -/
theorem test_decode_clk : decode 0b0111000000000000000000000000000000000000#40 = .ok .clk := by decide
/-- R58's pattern of `NEXTB`. -/
theorem test_decode_nextb : decode 0b1000000000000000000000000000000000000000#40 = .ok .nextb := by decide
/-- R58's pattern of `XORB`, byte 0x48. -/
theorem test_decode_xorb : decode 0b1001000000000000000000000000000001001000#40 = .ok (.xorb 0x48#8) := by decide
/-- R58's pattern of `COMB`, bits 0x555. -/
theorem test_decode_comb : decode 0b1010000000000000000000000000010101010101#40 = .ok (.comb 0x555#11) := by decide

/-- 95 section 2.7: the words that decode to Illegal. -/
theorem test_decode_illegal :
    decode 0x0000000000#40 = .error .reservedOpcode ∧ decode 0xFFFFFFFFFF#40 = .error .reservedOpcode ∧
    decode 0xB000000000#40 = .error .reservedOpcode ∧ decode 0x1100000000#40 = .error .idxNotZero ∧
    decode 0x1000000001#40 = .error .immNotZero ∧ decode 0x3000000100#40 = .error .immNotZero ∧
    decode 0x3100000000#40 = .error .idxNotZero ∧ decode 0x5B00000001#40 = .error .idxOutOfRange ∧
    decode 0x6A00000001#40 = .error .immNotZero ∧ decode 0x6F00000000#40 = .error .idxOutOfRange ∧
    decode 0xA000000800#40 = .error .immNotZero := by decide

/-- R55's example of a word, and R62. -/
theorem test_encode_lds : encode (.lds 10#4 1#32) = 0x5A00000001#40 ∧ encode (.lds 0#4 0#32) = 0x5000000000#40 := by decide

/-- opcode_table.json numbers a row's 40 bits as one number. -/
theorem test_table_word : decodeTableWord 40 0xA0000007FF = some (.comb 0x7FF#11) := by decide

/-- R64, R65: lines of the spec's programs. -/
theorem test_asm_lines :
    asmLine "LDS 10, 0x00000001 ; one Register".toList = some (.command (.lds 10#4 1#32)) ∧
    asmLine "KABS 0x61".toList = some (.command (.kabs 0x61#8)) ∧
    asmLine "RDS 11".toList = none ∧ asmLine "  ; nothing".toList = some .blank := by decide

/-- R65: `KEY "abc"` and its expansion. -/
theorem test_asm_key :
    (asmLine ['K', 'E', 'Y', ' ', quoteChar, 'a', 'b', 'c', quoteChar]).map AsmLine.commands =
      some [.kinit, .kabs 0x61#8, .kabs 0x62#8, .kabs 0x63#8, .kseed] := by decide

/-! ## States the tests use -/

/-- Every Register in state 1: the state after `LDALL 1` (R65). -/
def onesState : State := State.reset.writeBank (Vector.replicate NREG 1#32)

/-- A running core in the middle of a key, one byte absorbed. -/
def absorbingState : State := { State.reset with acc := some 0xA28F2504#32, accn := true }

/-- A core halted by `UNKEYED`. -/
def haltedState : State := { State.reset with fault := some .unkeyed }

/-- CFG_REF with `REJECT_EMPTY` true (95 section 2.2). -/
def strictCfg : Cfg := { Cfg.ref with rejectEmpty := true }

theorem onesState_keyed : ∀ i : RegIdx, onesState.S[i] = some (Vector.replicate NREG 1#32 : Bank)[i] := by decide

/-! ## One step of each command -/

/-- 95 section 2.1. -/
theorem test_lfsr_step :
    lfsrStep 0x80000057#32 0xDEADBEEF#32 = (0xEF56DF20#32, true) ∧
    lfsrStep 0x8000016C#32 0xFFFFFFFF#32 = (0xFFFFFE93#32, true) ∧
    lfsrStep 0x80000057#32 0x80000000#32 = (0x40000000#32, false) ∧
    lfsrStep 0x80000057#32 0x80000001#32 = (0xC0000057#32, true) := by decide

/-- 95 section 2.1. -/
theorem test_lfsr_unstep :
    lfsrUnstep 0x8000016C#32 0xEF56DE1B#32 = 0xDEADBEEF#32 ∧ lfsrUnstep 0x80000092#32 1#32 = 2#32 ∧
    lfsrUnstep 0x80000057#32 0xFFFFFFA8#32 = 0xFFFFFFFF#32 := by decide

/-- 95 section 2.2: the byte is zero-extended and the shift discards high bits. -/
theorem test_absorb :
    absorb 0x80000000#32 0x80#8 = 0x80000080#32 ∧ absorb 0xFFFFFFFF#32 0xFF#8 = 0x000000E0#32 ∧
    absorb 0xA28F2504#32 0x62#8 = 0xF36B85E6#32 := by decide

/-- 95 section 2.2: `acc_of` of "password" and of two high bytes. -/
theorem test_acc_of :
    accOf Cfg.ref [0x70#8, 0x61#8, 0x73#8, 0x73#8, 0x77#8, 0x6F#8, 0x72#8, 0x64#8] = 0xC60F391A#32 ∧
    accOf Cfg.ref [0x80#8, 0xFF#8] = 0xF36B99BA#32 := by decide

/-- 95 section 2.1: `LDS 10, FFFFFFFF` from reset. -/
theorem test_lds : (lds 10#4 0xFFFFFFFF#32 State.reset).V = 0x400#11 ∧
    (rds 10#4 (lds 10#4 0xFFFFFFFF#32 State.reset)).rsp = some ⟨0#4, 0xFFFFFFFF#32⟩ := by decide

/-- 95 section 2.1: `RDS 1` of a Register that holds no value. -/
theorem test_rds_unkeyed : (rds 1#4 (lds 0#4 5#32 State.reset)).rsp = some ⟨3#4, 0#32⟩ ∧
    (rds 1#4 (lds 0#4 5#32 State.reset)).S[0] = some 5#32 := by decide

/-- 95 section 2.2: the seeds of the empty passphrase, first, second and last; the accumulator gone. -/
theorem test_kseed_empty :
    (kseed Cfg.ref (kinit Cfg.ref State.reset)).S[0] = some 0x811C9DC5#32 ∧
    (kseed Cfg.ref (kinit Cfg.ref State.reset)).S[1] = some 0x1F2BE47C#32 ∧
    (kseed Cfg.ref (kinit Cfg.ref State.reset)).S[10] = some 0xAF365CFF#32 ∧
    (kseed Cfg.ref (kinit Cfg.ref State.reset)).acc = none := by decide

/-- 95 section 2.2: with `REJECT_EMPTY` true. -/
theorem test_kseed_rejects_empty :
    (kseed strictCfg (kinit strictCfg State.reset)).rsp = some ⟨5#4, 0#32⟩ ∧
    (kseed strictCfg (kinit strictCfg State.reset)).ACCV = true ∧
    (kseed strictCfg (kinit strictCfg State.reset)).V = 0#11 := by decide

/-- 95 section 2.3, clock 1: fresh bits 0x111 and the combined bit. -/
theorem test_clk_second_clock : (clk Cfg.ref (clk Cfg.ref onesState)).rsp = some ⟨0#4, 0x00000911#32⟩ ∧
    (clk Cfg.ref (clk Cfg.ref onesState)).S[8] = some 0xC00001BB#32 := by decide

/-- 95 section 3.3: the bank after one `NEXTB` from all ones, first and last Register. -/
theorem test_nextb_bank : (nextb Cfg.ref onesState).S[0] = some 0x1300000B#32 ∧
    (nextb Cfg.ref onesState).S[10] = some 0x99000155#32 := by decide +kernel

/-- 95 section 2.6: `XORB FF` as the first command after `KEY "a"`. -/
theorem test_xorb : (xorb Cfg.ref 0xFF#8 (State.reset.writeBank (seedBank Cfg.ref 0xA28F2504#32))).rsp =
    some ⟨0#4, 0x0000001C#32⟩ := by decide +kernel

/-- 95 section 2.4. -/
theorem test_combine :
    combine 0x003#11 = true ∧ combine 0x002#11 = false ∧ combine 0x038#11 = true ∧ combine 0x1C0#11 = true ∧
    combine 0x600#11 = false ∧ combine 0x555#11 = true ∧ combine 0x2AA#11 = true := by decide

/-- 95 section 2.8: from reset `NEXTB` raises `UNKEYED`. -/
theorem test_step_nextb_from_reset :
    step (State.reset.withFetchWord 40 0x8000000000) =
      .next { State.reset with fault := some .unkeyed, rsp := some ⟨3#4, 0#32⟩ } := rfl

/-- 95 section 2.8: a halted core reports the latched code for an illegal word. -/
theorem test_step_illegal_word_on_halted_core :
    step (haltedState.withFetchWord 40 0) = .next { haltedState with rsp := some ⟨3#4, 0#32⟩ } := rfl

/-- 95 section 2.8: `1100000000` is not `RST`. -/
theorem test_step_not_rst : step (State.reset.withFetchWord 40 0x1100000000) =
      .next { State.reset with fault := some .illegal, rsp := some ⟨1#4, 0#32⟩ } := rfl

/-- R160's example. -/
theorem test_step_rst : step (haltedState.withFetchWord 40 0x1000000000) =
      .next { State.reset with rsp := some ⟨0#4, 0#32⟩ } := rfl

/-! ## Witnesses: the hypotheses of the statements can be met -/

theorem witness_EncodedCommandDecodesToItself : (Instr.lds 10#4 0#32).wf = true := by decide
theorem witness_LegalWordIsTheWordOfItsCommand : decode 0x6A00000000#40 = .ok (.rds 10#4) := by decide
theorem witness_DecoderIsTheCaseTable : decode 0x5AFFFFFFFF#40 = .ok (.lds 10#4 0xFFFFFFFF#32) := by decide
theorem witness_OpcodeTableSelectsTheCommand :
    ∃ r, r ∈ opcodeTable ∧ r.accepts 0x6A00000000#40 = true := ⟨opcodeTable[5], by decide, by decide⟩
theorem witness_UndecodableWordRaisesIllegal :
    decode 0x5B00000001#40 = .error .idxOutOfRange ∧ State.reset.fault = none := by decide
theorem witness_LdsZeroIsLegalAndFaults : (10#4).toNat ≤ 10 ∧ State.reset.fault = none := by decide
theorem witness_OutOfRangeIndexRaisesIllegal :
    11 ≤ (11#4).toNat ∧ 11 ≤ (15#4).toNat ∧ State.reset.fault = none := by decide
theorem witness_StepRunsTheDecodedCommand :
    (State.reset.issueNext 0x7000000000#40).host = [.issue 0x7000000000#40] ∧
    decode 0x7000000000#40 = .ok .clk ∧ decodeTableWord 40 0x7000000000 = some .clk := by decide
theorem witness_WordIsExecutedInTheOrderOfChecks_halted :
    (0x0000000000#40 : CmdWord) ≠ 0x1000000000#40 ∧ haltedState.fault = some .unkeyed := by decide
theorem witness_WordIsExecutedInTheOrderOfChecks_illegal :
    State.reset.fault = none ∧ decode 0x0000000000#40 = .error .reservedOpcode := by decide
theorem witness_WordIsExecutedInTheOrderOfChecks_faulting :
    State.reset.fault = none ∧ decode 0x7000000000#40 = .ok .clk ∧
    faultOf coreCfg State.reset .clk = some .unkeyed := by decide
theorem witness_WordIsExecutedInTheOrderOfChecks_performed :
    onesState.fault = none ∧ decode 0x7000000000#40 = .ok .clk ∧ faultOf coreCfg onesState .clk = none := by decide
theorem witness_CommandFaultsExactlyByTheTable :
    decode 0xB000000000#40 = .error .reservedOpcode ∧ (10#4).toNat ≤ 10 ∧ State.reset.fault = none := by decide
theorem witness_RaisingAFaultChangesNothingElse : ∃ t, State.reset.fault = none ∧
    execWord 0x8000000000#40 State.reset = .next t ∧ t.fault = some .unkeyed := ⟨_, rfl, rfl, rfl⟩
theorem witness_HaltedCoreSuppressesAllButRst :
    haltedState.FAULT ≠ 0#4 ∧ (0x1100000000#40 : CmdWord) ≠ 0x1000000000#40 := by decide
theorem witness_OnlyRstOrResetLeavesTheHaltedState_kept : ∃ t, haltedState.fault = some .unkeyed ∧
    step (haltedState.issueNext 0x2000000000#40) = .next t ∧ t.fault = some .unkeyed := ⟨_, rfl, rfl, rfl⟩
theorem witness_OnlyRstOrResetLeavesTheHaltedState_left : ∃ t, haltedState.fault = some .unkeyed ∧
    step (haltedState.issueNext 0x1000000000#40) = .next t ∧ t.fault = none := ⟨_, rfl, rfl, rfl⟩
theorem onesState_NZ : onesState.NZ := by
  intro i v h
  rw [onesState_keyed i] at h
  cases h
  simp
theorem witness_NonzeroInvariantIsKept :
    onesState.NZ ∧ ∃ t, step (onesState.issueNext 0x7000000000#40) = .next t := ⟨onesState_NZ, _, rfl⟩
/-- One state that meets both: a halted core without an accumulator, its fault answered at the port, a command to come. -/
theorem witness_StatusInvariantIsKept : ∃ s t : State, s.AccOk ∧ s.PortOk ∧ s.ACCV = false ∧ s.rsp = some ⟨3#4, 0#32⟩ ∧
    step s = .next t :=
  ⟨haltedState.suppress.issueNext 0x7000000000#40, _, fun _ => rfl, fun r h => (by cases h; decide), rfl, rfl, rfl⟩
theorem witness_ResetInputHasTheEffectOfRst : ({ onesState with host := [.reset] } : State).host = .reset :: [] := rfl
theorem witness_WaitingHoldsTheState :
    ({ onesState with host := [.wait] } : State).host = .wait :: [] ∧ onesState.host = [] := ⟨rfl, rfl⟩
theorem witness_RstReturnsToTheResetState :
    opOf 0x1100000000#40 = 1#4 ∧ (0x1100000000#40 : CmdWord) ≠ 0x1000000000#40 := by decide
theorem witness_KinitStartsTheAccumulator : State.reset.fault = none := rfl
theorem witness_KabsAbsorbsOneByte_noacc : State.reset.fault = none ∧ State.reset.acc = none := ⟨rfl, rfl⟩
theorem witness_KabsAbsorbsOneByte_absorbs :
    absorbingState.fault = none ∧ absorbingState.acc = some 0xA28F2504#32 := ⟨rfl, rfl⟩
theorem witness_KseedConstructsTheBank_noacc : State.reset.fault = none ∧ State.reset.acc = none := ⟨rfl, rfl⟩
theorem witness_KseedConstructsTheBank_seeds : absorbingState.fault = none ∧
    absorbingState.acc = some 0xA28F2504#32 ∧ absorbingState.accn = true := ⟨rfl, rfl, rfl⟩
theorem witness_KseedConstructsTheBank_empty : strictCfg.rejectEmpty = true ∧
    (kinit strictCfg State.reset).acc = some 0x811C9DC5#32 ∧ (kinit strictCfg State.reset).accn = false := by decide
theorem witness_LdsConstructsOneRegister : State.reset.fault = none ∧ 0xFFFFFFFF#32 ≠ 0#32 := by decide
theorem witness_RdsReadsOneRegister :
    State.reset.fault = none ∧ State.reset.S[(10 : RegIdx)] = none ∧ onesState.fault = none ∧
    onesState.S[(10 : RegIdx)] = some 1#32 := by decide
theorem witness_bankCommands_unkeyed : State.reset.fault = none ∧ ∃ i : RegIdx, State.reset.S[i] = none :=
  ⟨rfl, 10, by decide⟩
/-- Ten Registers of eleven are not enough. -/
theorem witness_bankCommands_ten_of_eleven : ∃ s : State, s.fault = none ∧ s.V = 0x3FF#11 ∧ ∃ i : RegIdx, s.S[i] = none :=
  ⟨{ onesState with S := onesState.S.set 10 none }, rfl, by decide, 10, by decide⟩
theorem witness_bankCommands_keyed : onesState.fault = none ∧
    ∃ B : Bank, ∀ i : RegIdx, onesState.S[i] = some B[i] := ⟨rfl, _, onesState_keyed⟩
theorem witness_bankCommands_allOnes : onesState.fault = none ∧ ∀ i : RegIdx, onesState.S[i] = some 1#32 := by decide
theorem witness_CombEvaluatesTheCombiner : State.reset.fault = none ∧ 2048 ≤ (2048#32).toNat := by decide
theorem witness_KeyScheduleCommandsFrame :
    (∃ t, exec .kinit onesState = .next t) ∧ (∃ t, exec (.kabs 1#8) absorbingState = .next t) ∧
    (∃ t, exec .kseed absorbingState = .next t) := ⟨⟨_, rfl⟩, ⟨_, rfl⟩, ⟨_, rfl⟩⟩
theorem witness_BankCommandsFrame :
    (∃ t, exec (.lds 10#4 7#32) onesState = .next t) ∧ (∃ t, exec .clk onesState = .next t) ∧
    (∃ t, exec .nextb onesState = .next t) ∧ (∃ t, exec (.xorb 1#8) onesState = .next t) :=
  ⟨⟨_, rfl⟩, ⟨_, rfl⟩, ⟨_, rfl⟩, ⟨_, rfl⟩⟩
theorem witness_ReadingCommandsFrame :
    (∃ t, exec (.rds 10#4) onesState = .next t) ∧ (∃ t, exec (.comb 0x7FF#11) onesState = .next t) :=
  ⟨⟨_, rfl⟩, ⟨_, rfl⟩⟩
theorem witness_WhenAStepReachesZero : (0x80000057#32).getLsbD 31 = true ∧ (0x00000057#32).getLsbD 31 = false ∧
    0x000000AF#32 ≠ 0#32 := by decide
theorem witness_WhenTwoSeedsCollide : Cfg.ref.wf ∧ (0 : RegIdx) ≠ 10 ∧
    ({ Cfg.ref with c := 1#32 } : Cfg).c = 1#32 := by decide
theorem witness_OneByteChangesTheAccumulator : (0x61#8 : Byte) ≠ 0x62#8 := by decide
theorem witness_KeyLoadsTheSeedsOfThePassphrase : State.reset.fault = none ∧ [0x61#8] ≠ ([] : List Byte) := by decide
theorem witness_ElevenLdsKeyTheCore : State.reset.fault = none ∧
    (List.finRange NREG).reverse.Perm (List.finRange NREG) ∧
    ∀ i : RegIdx, (Vector.replicate NREG 1#32 : Bank)[i] ≠ 0#32 :=
  ⟨rfl, List.reverse_perm _, by decide⟩
theorem witness_StepOrderDoesNotMatter : (List.finRange NREG).reverse.Perm (List.finRange NREG) := List.reverse_perm _
theorem witness_EightClocksAreOneByte : onesState.fault = none ∧ (∀ i : RegIdx, onesState.S[i] = some (Vector.replicate NREG 1#32 : Bank)[i]) ∧
    ∀ i ∈ [Instr.clk, .nextb, .xorb 0x48#8], 0 < clocks i := ⟨rfl, onesState_keyed, by decide⟩
theorem witness_TransformTwiceIsTheIdentity :
    State.reset.fault = none ∧ onesState.fault = none ∧ [0x61#8] ≠ ([] : List Byte) := by decide
theorem witness_StreamLengthIsPreserved : onesState.fault = none ∧
    (∀ i : RegIdx, onesState.S[i] = some (Vector.replicate NREG 1#32 : Bank)[i]) ∧
    [0x48#8, 0x69#8][1]? = some (0x69#8 : Byte) := ⟨rfl, onesState_keyed, rfl⟩
theorem witness_CoresDoNotInteract : [State.reset, onesState][1]? = some onesState := rfl
theorem witness_SuccessfulRunHadNoFault :
    (∀ w ∈ [0xA0000007FF#40], w ≠ rstWord) ∧
    run [0xA0000007FF#40] State.reset =
      some ({ State.reset with rsp := some ⟨0#4, 1#32⟩ }, [⟨0#4, 1#32⟩]) ∧
    ({ State.reset with rsp := some ⟨0#4, 1#32⟩ } : State).successful :=
  ⟨fun w hw => (by simp [List.mem_singleton.1 hw, rstWord]), (by decide +kernel), rfl⟩
/-- The ranges of the bit and clock numbers in the statements, at both ends. -/
theorem witness_bitRanges :
    (0 ≤ 30 ∧ 30 ≤ 30) ∧ (5 ≤ 5 ∧ 31 < 32) ∧ (8 ≤ 8 ∧ 12 ≤ 12) ∧ (0 < 8 ∧ 7 < 8) ∧ (63 < 64 ∧ 31 < 32) := by decide
theorem witness_AccumulatorIsSeenOnlyThroughSeeds : decode 0x3000000061#40 ≠ .ok .kseed := by decide

end Sys2Proof.Tests
end

section
/-! SUPPORT. The statements of 00_scope.md (rules R7 to R9, R13): the constants `K[i]` and item 5 of `wf(Cfg)`, the reference
configuration, and the host's waiting. -/

namespace Sys2Proof

/-- `K[i]` as a number (R7, R14 b). -/
theorem Cfg.K_toNat (cfg : Cfg) (i : RegIdx) : (cfg.K i).toNat = i.val * cfg.c.toNat % 2 ^ 32 := by
  simp [Cfg.K]

/-- Two constants agree exactly when the word size divides the difference of their indexes times `C` (R8 item 5). -/
theorem Cfg.K_eq_iff_dvd (cfg : Cfg) {i j : RegIdx} (h : j ≤ i) :
    cfg.K i = cfg.K j ↔ 2 ^ 32 ∣ (i.val - j.val) * cfg.c.toNat := by
  rw [eq_comm, ← BitVec.toNat_inj, Cfg.K_toNat, Cfg.K_toNat, Nat.sub_mul]
  exact Nat.modEq_iff_dvd' (Nat.mul_le_mul_right _ h)

/-- Of the factors of `2^32`, a number in 1..10 has at most `2^3` (R8 item 5). -/
theorem gcd_two_pow_dvd_eight : ∀ d < NREG, d ≠ 0 → Nat.gcd (2 ^ 32) d ∣ 8 := by
  decide

/-- A difference of two indexes supplies at most three of the 32 factors 2, so `c` supplies the other 29 (R8 item 5). -/
theorem two_pow_29_dvd_of_dvd_mul {d c : Nat} (hd : d < NREG) (hd0 : d ≠ 0) (h : 2 ^ 32 ∣ d * c) : 2 ^ 29 ∣ c := by
  have hgcd : 2 ^ 32 ∣ Nat.gcd (2 ^ 32) d * c := by
    rw [← Nat.gcd_mul_right]
    exact Nat.dvd_gcd (Nat.dvd_mul_right _ c) h
  have height : 8 * 2 ^ 29 ∣ 8 * c := hgcd.trans (Nat.mul_dvd_mul_right (gcd_two_pow_dvd_eight d hd hd0) c)
  exact Nat.dvd_of_mul_dvd_mul_left (by decide) height

/-- Item 5 of `wf(Cfg)` fails when two of the constants agree. -/
theorem Cfg.two_pow_29_dvd_of_K_eq (cfg : Cfg) {i j : RegIdx} (hlt : j < i) (h : cfg.K i = cfg.K j) :
    2 ^ 29 ∣ cfg.c.toNat :=
  two_pow_29_dvd_of_dvd_mul (Nat.lt_of_le_of_lt (Nat.sub_le _ _) i.isLt) (Nat.sub_ne_zero_of_lt hlt)
    ((cfg.K_eq_iff_dvd hlt.le).1 h)

/-- Without item 5 of `wf(Cfg)`, `K[8]` wraps round to `K[0]`. -/
theorem Cfg.K_eight_eq_K_zero (cfg : Cfg) (h : 2 ^ 29 ∣ cfg.c.toNat) : cfg.K 8 = cfg.K 0 :=
  (cfg.K_eq_iff_dvd (Fin.zero_le 8)).2 (Nat.mul_dvd_mul_left 8 h)

/-- Settles O43: two equal constants force `2^29` to divide `C`, and then `K[8] = K[0]`. -/
theorem itemFiveMakesTheConstantsDiffer : Obligations.ItemFiveMakesTheConstantsDiffer := by
  intro cfg
  rw [Cfg.cNotMultiple, ne_eq, ← Nat.dvd_iff_mod_eq_zero]
  constructor
  · intro hc i j hij hK
    rcases lt_or_gt_of_ne hij with hlt | hgt
    · exact hc (cfg.two_pow_29_dvd_of_K_eq hlt hK.symm)
    · exact hc (cfg.two_pow_29_dvd_of_K_eq hgt hK)
  · intro hK hc
    exact hK 8 0 (by decide) (cfg.K_eight_eq_K_zero hc)

/-- Settles O44: the six items of R8 and the eleven products of R9, by computation as the spec checks them. -/
theorem referenceConfigurationIsWellFormed : Obligations.ReferenceConfigurationIsWellFormed :=
  ⟨by decide, by decide⟩

namespace Machine

/-- A step in which the host waits (R13, R192). -/
theorem step_wait {s : State} {later : List HostMove} (h : s.host = .wait :: later) :
    step s = .next { s with host := later } := by
  simp only [step, State.takeMove, h]

/-- A step in which the host has no move to make (R13, R192; log 4). -/
theorem step_idle {s : State} (h : s.host = []) : step s = .next s := by
  simp only [step, State.takeMove, h]

/-- Settles O23: a wait move is only taken off the list, and with an empty list there is nothing to take. -/
theorem waitingHoldsTheState : Obligations.WaitingHoldsTheState :=
  ⟨fun _ _ h => step_wait h, fun _ h => step_idle h⟩

end Machine

end Sys2Proof
end

section
/-! SUPPORT. The statements of 10_state.md (rules R22, R24, R29, R35): what the commands leave unchanged, the invariant `NZ`, and who
can see the accumulator. -/

namespace Sys2Proof.Machine

/-! ### What a command can do, by shared operation -/

theorem execWord_ok {w : CmdWord} {i : Instr} (h : decode w = .ok i) (s : State) : execWord w s = exec i s := by
  simp only [execWord, h]

theorem execWord_error {w : CmdWord} {e : DecodeError} (h : decode w = .error e) (s : State) :
    execWord w s = issueIllegal s := by
  simp only [execWord, h]

/-- Every meaning but `RST`'s, read backwards: the core was halted and only answered, or was running and performed the command
(R173, R175). -/
theorem State.unlessHalted_inv {s t : State} {f : State → State}
    (h : (.next (s.unlessHalted f) : Host.Outcome State Fault Refusal) = .next t) :
    (∃ x, s.fault = some x ∧ t = { s with rsp := some ⟨x.code, 0#32⟩ }) ∨ (s.fault = none ∧ t = f s) := by
  obtain rfl := Host.Outcome.next.inj h
  exact s.unlessHalted_cases f

theorem State.withBank_cases (s : State) (f : Bank → State) :
    s.withBank f = s.raise .unkeyed ∨ ∃ B : Bank, (∀ i : RegIdx, s.S[i] = some B[i]) ∧ s.withBank f = f B := by
  rcases s.unkeyed_or_keyed with h | ⟨B, h⟩
  · exact .inl (State.withBank_unkeyed h f)
  · exact .inr ⟨B, h, State.withBank_keyed h f⟩

theorem State.withReg_cases (s : State) (idx : Nibble) (f : RegIdx → State) :
    s.withReg idx f = s.raise .illegal ∨ ∃ i, regIdx idx = some i ∧ s.withReg idx f = f i := by
  rcases h : regIdx idx with _ | i
  · exact .inl (State.withReg_illegal ((regIdx_eq_none_iff idx).1 h) f)
  · exact .inr ⟨i, rfl, State.withReg_legal h f⟩

/-! ### What each command can do on a running core -/

theorem kabs_cases (b : Byte) (s : State) :
    kabs b s = s.raise .noacc ∨
      ∃ a, s.acc = some a ∧ kabs b s = ((s.writeAcc (absorb a b)).writeAccn true).respond 0#32 := by
  rcases h : s.acc with _ | a
  · exact .inl (kabs_none h b)
  · exact .inr ⟨a, rfl, kabs_some h b⟩

theorem kseed_cases (cfg : Cfg) (s : State) :
    (∃ f, kseed cfg s = s.raise f) ∨
      ∃ a, s.acc = some a ∧
        kseed cfg s = (((s.writeBank (seedBank cfg a)).clearAcc).writeAccn false).respond 0#32 := by
  rcases h : s.acc with _ | a
  · exact .inl ⟨_, kseed_none h cfg⟩
  · by_cases haccepts : cfg.rejectEmpty = false ∨ s.accn = true
    · exact .inr ⟨a, rfl, kseed_some h haccepts⟩
    · obtain ⟨hreject, hempty⟩ : cfg.rejectEmpty = true ∧ s.accn = false := by simpa using haccepts
      exact .inl ⟨_, kseed_empty h hreject hempty⟩

theorem lds_cases (idx : Nibble) (v : Word) (s : State) :
    (∃ f, lds idx v s = s.raise f) ∨
      ∃ i, regIdx idx = some i ∧ v ≠ 0#32 ∧ lds idx v s = (s.writeReg i v).respond 0#32 := by
  rcases s.withReg_cases idx _ with h | ⟨i, hi, -⟩
  · exact .inl ⟨_, h⟩
  · by_cases hv : v = 0#32
    · exact .inl ⟨_, hv ▸ lds_zero hi s⟩
    · exact .inr ⟨i, hi, hv, lds_nonzero hi hv s⟩

theorem rds_cases (idx : Nibble) (s : State) :
    (∃ f, rds idx s = s.raise f) ∨ ∃ i v, regIdx idx = some i ∧ s.S[i] = some v ∧ rds idx s = s.respond v := by
  rcases s.withReg_cases idx _ with h | ⟨i, hi, -⟩
  · exact .inl ⟨_, h⟩
  · rcases hs : s.S[i] with _ | v
    · exact .inl ⟨_, rds_none hi hs⟩
    · exact .inr ⟨i, v, hi, hs, rds_some hi hs⟩

theorem nextByte_bank (cfg : Cfg) (B : Bank) : (nextByte cfg B).1 = bankAfter cfg B 8 :=
  assemble_bank cfg 8 B 0#8

/-- `CLK`, `NEXTB` and `XORB` are one command but for the number of clocks and the response (R122, R142, R150). -/
theorem exec_of_clocks_pos {i : Instr} (hi : 0 < clocks i) :
    ∃ dout : Bank → Word, ∀ s : State, exec i s = .next (s.unlessHalted fun u => u.withBank fun B =>
      (u.writeBank (bankAfter coreCfg B (clocks i))).respond (dout B)) := by
  cases i with
  | clk => exact ⟨fun B => packClock (combine (stepAll coreCfg B).2) (stepAll coreCfg B).2, fun _ => rfl⟩
  | nextb =>
    simp only [clocks, ← nextByte_bank]
    exact ⟨fun B => zextByte (nextByte coreCfg B).2, fun _ => rfl⟩
  | xorb b =>
    simp only [clocks, ← nextByte_bank]
    exact ⟨fun B => zextByte (b ^^^ (nextByte coreCfg B).2), fun _ => rfl⟩
  | _ => exact absurd hi (Nat.lt_irrefl 0)

/-- A bank command is suppressed, or raises `UNKEYED`, or takes the bank the command's clocks on (R122, R142, R150). -/
theorem exec_bank_cases {i : Instr} (hi : 0 < clocks i) {s t : State} (h : exec i s = .next t) :
    (∃ x, s.fault = some x ∧ t = { s with rsp := some ⟨x.code, 0#32⟩ }) ∨
      t = s.raise .unkeyed ∨
      ∃ (B : Bank) (d : Word), (∀ j : RegIdx, s.S[j] = some B[j]) ∧
        t = (s.writeBank (bankAfter coreCfg B (clocks i))).respond d := by
  obtain ⟨dout, hexec⟩ := exec_of_clocks_pos hi
  rcases State.unlessHalted_inv ((hexec s).symm.trans h) with hhalted | ⟨-, rfl⟩
  · exact .inl hhalted
  · rcases s.withBank_cases _ with he | ⟨B, hB, he⟩
    · exact .inr (.inl he)
    · exact .inr (.inr ⟨B, dout B, hB, he⟩)

/-! ### Frames (R22, R35, R45) -/

theorem exec_kinit_frame {s t : State} (h : exec .kinit s = .next t) :
    t.S = s.S ∧ t.fault = s.fault ∧ t.host = s.host := by
  rcases State.unlessHalted_inv h with ⟨x, -, rfl⟩ | ⟨-, rfl⟩ <;> exact ⟨rfl, rfl, rfl⟩

theorem exec_kabs_frame {s t : State} {b : Byte} (h : exec (.kabs b) s = .next t) :
    t.S = s.S ∧ t.host = s.host ∧
      (t.fault = s.fault ∨ (t.fault = some .noacc ∧ t.acc = s.acc ∧ t.accn = s.accn)) := by
  rcases State.unlessHalted_inv h with ⟨x, -, rfl⟩ | ⟨-, rfl⟩
  · exact ⟨rfl, rfl, .inl rfl⟩
  · rcases kabs_cases b s with he | ⟨a, -, he⟩ <;> rw [he]
    · exact ⟨rfl, rfl, .inr ⟨rfl, rfl, rfl⟩⟩
    · exact ⟨rfl, rfl, .inl rfl⟩

theorem exec_kseed_frame {s t : State} (h : exec .kseed s = .next t) :
    t.host = s.host ∧ (t.fault = s.fault ∨ (t.S = s.S ∧ t.acc = s.acc ∧ t.accn = s.accn)) := by
  rcases State.unlessHalted_inv h with ⟨x, -, rfl⟩ | ⟨-, rfl⟩
  · exact ⟨rfl, .inl rfl⟩
  · rcases kseed_cases coreCfg s with ⟨f, he⟩ | ⟨a, -, he⟩ <;> rw [he]
    · exact ⟨rfl, .inr ⟨rfl, rfl, rfl⟩⟩
    · exact ⟨rfl, .inl rfl⟩

theorem exec_lds_frame {s t : State} {idx : Nibble} {v : Word} (h : exec (.lds idx v) s = .next t) :
    t.acc = s.acc ∧ t.accn = s.accn ∧ t.host = s.host ∧
      (∀ j : RegIdx, j.val ≠ idx.toNat → t.S[j] = s.S[j]) ∧ (t.fault = s.fault ∨ t.S = s.S) := by
  rcases State.unlessHalted_inv h with ⟨x, -, rfl⟩ | ⟨-, rfl⟩
  · exact ⟨rfl, rfl, rfl, fun _ _ => rfl, .inl rfl⟩
  · rcases lds_cases idx v s with ⟨f, he⟩ | ⟨i, hi, -, he⟩ <;> rw [he]
    · exact ⟨rfl, rfl, rfl, fun _ _ => rfl, .inr rfl⟩
    · have hidx : idx.toNat = i.val := (regIdx_eq_some_iff idx i).1 hi
      refine ⟨rfl, rfl, rfl, fun j hj => s.writeReg_other v ?_, .inl rfl⟩
      exact fun hji => hj (hji ▸ hidx.symm)

/-- Writing a whole bank over a whole bank changes no valid bit (R21, R122). -/
theorem State.writeBank_V {s : State} {B : Bank} (h : ∀ i : RegIdx, s.S[i] = some B[i]) (B' : Bank) :
    (s.writeBank B').V = s.V := by
  have hold : s.V = 0x7FF#11 := s.V_eq_full_iff.2 fun i => by rw [h i]; rfl
  have hnew : (s.writeBank B').V = 0x7FF#11 :=
    (s.writeBank B').V_eq_full_iff.2 fun i => by rw [s.writeBank_get B' i]; rfl
  rw [hold, hnew]

theorem exec_bank_frame {i : Instr} (hi : 0 < clocks i) {s t : State} (h : exec i s = .next t) :
    t.acc = s.acc ∧ t.accn = s.accn ∧ t.host = s.host ∧ t.V = s.V ∧ (t.fault = s.fault ∨ t.S = s.S) := by
  rcases exec_bank_cases hi h with ⟨x, -, rfl⟩ | rfl | ⟨B, d, hB, rfl⟩
  · exact ⟨rfl, rfl, rfl, rfl, .inl rfl⟩
  · exact ⟨rfl, rfl, rfl, rfl, .inr rfl⟩
  · exact ⟨rfl, rfl, rfl, State.writeBank_V hB _, .inl rfl⟩

theorem exec_rds_frame {s t : State} {idx : Nibble} (h : exec (.rds idx) s = .next t) :
    t.S = s.S ∧ t.acc = s.acc ∧ t.accn = s.accn ∧ t.host = s.host := by
  rcases State.unlessHalted_inv h with ⟨x, -, rfl⟩ | ⟨-, rfl⟩
  · exact ⟨rfl, rfl, rfl, rfl⟩
  · rcases rds_cases idx s with ⟨f, he⟩ | ⟨i, v, -, -, he⟩ <;> rw [he] <;> exact ⟨rfl, rfl, rfl, rfl⟩

theorem exec_comb_frame {s t : State} {b : Bits11} (h : exec (.comb b) s = .next t) :
    t.S = s.S ∧ t.acc = s.acc ∧ t.accn = s.accn ∧ t.fault = s.fault ∧ t.host = s.host := by
  rcases State.unlessHalted_inv h with ⟨x, -, rfl⟩ | ⟨-, rfl⟩ <;> exact ⟨rfl, rfl, rfl, rfl, rfl⟩

/-- Settles O34: the frames of the three key-schedule commands. -/
theorem keyScheduleCommandsFrame : Obligations.KeyScheduleCommandsFrame :=
  ⟨fun _ _ h => exec_kinit_frame h, fun _ _ _ h => exec_kabs_frame h, fun _ _ h => exec_kseed_frame h⟩

/-- Settles O35: the frame of `LDS`, and the one frame of the three commands that make clocks. -/
theorem bankCommandsFrame : Obligations.BankCommandsFrame := by
  refine ⟨fun _ _ _ _ h => exec_lds_frame h, fun _ _ b i hi h => exec_bank_frame ?_ h⟩
  rcases hi with rfl | rfl | rfl <;> simp [clocks]

/-- Settles O36: the frames of `RDS` and `COMB`. -/
theorem readingCommandsFrame : Obligations.ReadingCommandsFrame :=
  ⟨fun _ _ _ h => exec_rds_frame h, fun _ _ _ h => exec_comb_frame h⟩

/-! ### The invariant `NZ` (R24) -/

/-- `NZ` speaks of the Registers only. -/
theorem State.NZ.of_S_eq {s t : State} (hs : s.NZ) (h : t.S = s.S) : t.NZ := by
  unfold State.NZ
  rw [h]
  exact hs

/-- After reset no Register holds a value (R24, R201). -/
theorem State.reset_NZ : State.reset.NZ := by
  intro i v h
  simp [State.reset] at h

theorem State.NZ.writeReg {s : State} (hs : s.NZ) (i : RegIdx) {v : Word} (hv : v ≠ 0#32) : (s.writeReg i v).NZ := by
  intro j u h
  by_cases hj : j = i
  · subst hj
    rw [s.writeReg_same j v] at h
    exact Option.some.inj h ▸ hv
  · rw [s.writeReg_other v hj] at h
    exact hs j u h

theorem State.writeBank_NZ (s : State) {B : Bank} (hB : ∀ i : RegIdx, B[i] ≠ 0#32) : (s.writeBank B).NZ := by
  intro i v h
  rw [s.writeBank_get B i] at h
  exact Option.some.inj h ▸ hB i

/-- A step never leads a nonzero state to 0 under a mask with bit 31 set: a shifted-out 1 puts that bit into the new state, and a
shifted-out 0 loses nothing (R84 b). -/
theorem lfsrStep_ne_zero {mask v : Word} (hmask : mask.getLsbD 31 = true) (hv : v ≠ 0#32) :
    (lfsrStep mask v).1 ≠ 0#32 := by
  intro hzero
  cases hout : v.getLsbD 0 with
  | true =>
    have htop : (lfsrStep mask v).1.getLsbD 31 = true := by simp [lfsrStep, hout, hmask]
    simp [hzero] at htop
  | false =>
    have hshift : v >>> 1 = 0#32 := by
      simpa only [lfsrStep, hout, Bool.false_eq_true, if_false] using hzero
    refine hv (BitVec.eq_of_getLsbD_eq fun k hk => ?_)
    cases k with
    | zero => simpa using hout
    | succ k => simpa [Nat.add_comm] using congrArg (·.getLsbD k) hshift

theorem bankAfter_ne_zero {cfg : Cfg} (hcfg : cfg.masksTopBit) {B : Bank} (hB : ∀ i : RegIdx, B[i] ≠ 0#32) (n : Nat)
    (i : RegIdx) : (bankAfter cfg B n)[i] ≠ 0#32 := by
  induction n with
  | zero => exact hB i
  | succ n ih =>
    rw [bankAfter, stepAll_bank]
    exact lfsrStep_ne_zero (hcfg i) ih

/-- The key schedule replaces a zero seed by 1 (R102). -/
theorem seedBank_ne_zero (cfg : Cfg) (a : Word) (i : RegIdx) : (seedBank cfg a)[i] ≠ 0#32 := by
  have hget : (seedBank cfg a)[i] = seed cfg a i := by simp [seedBank]
  rw [hget, seed]
  split
  · decide
  · assumption

theorem coreCfg_masksTopBit : coreCfg.masksTopBit := by
  obtain ⟨-, -, htop, -⟩ := coreCfg_wf
  exact htop

theorem exec_kseed_keeps_NZ {s t : State} (hs : s.NZ) (h : exec .kseed s = .next t) : t.NZ := by
  rcases State.unlessHalted_inv h with ⟨x, -, rfl⟩ | ⟨-, rfl⟩
  · exact hs.of_S_eq rfl
  · rcases kseed_cases coreCfg s with ⟨f, he⟩ | ⟨a, -, he⟩ <;> rw [he]
    · exact hs.of_S_eq rfl
    · exact (s.writeBank_NZ (seedBank_ne_zero coreCfg a)).of_S_eq rfl

theorem exec_lds_keeps_NZ {s t : State} {idx : Nibble} {v : Word} (hs : s.NZ) (h : exec (.lds idx v) s = .next t) :
    t.NZ := by
  rcases State.unlessHalted_inv h with ⟨x, -, rfl⟩ | ⟨-, rfl⟩
  · exact hs.of_S_eq rfl
  · rcases lds_cases idx v s with ⟨f, he⟩ | ⟨i, -, hv, he⟩ <;> rw [he]
    · exact hs.of_S_eq rfl
    · exact (hs.writeReg i hv).of_S_eq rfl

theorem exec_bank_keeps_NZ {i : Instr} (hi : 0 < clocks i) {s t : State} (hs : s.NZ) (h : exec i s = .next t) :
    t.NZ := by
  rcases exec_bank_cases hi h with ⟨x, -, rfl⟩ | rfl | ⟨B, d, hB, rfl⟩
  · exact hs.of_S_eq rfl
  · exact hs.of_S_eq rfl
  · have hB0 : ∀ j : RegIdx, B[j] ≠ 0#32 := fun j => hs j _ (hB j)
    exact (s.writeBank_NZ (bankAfter_ne_zero coreCfg_masksTopBit hB0 (clocks i))).of_S_eq rfl

theorem exec_keeps_NZ {i : Instr} {s t : State} (hs : s.NZ) (h : exec i s = .next t) : t.NZ := by
  cases i with
  | rst => exact Host.Outcome.next.inj h ▸ State.reset_NZ.of_S_eq rfl
  | kinit => exact hs.of_S_eq (exec_kinit_frame h).1
  | kabs b => exact hs.of_S_eq (exec_kabs_frame h).1
  | kseed => exact exec_kseed_keeps_NZ hs h
  | lds idx v => exact exec_lds_keeps_NZ hs h
  | rds idx => exact hs.of_S_eq (exec_rds_frame h).1
  | clk => exact exec_bank_keeps_NZ (i := .clk) Nat.one_pos hs h
  | nextb => exact exec_bank_keeps_NZ (i := .nextb) (Nat.succ_pos 7) hs h
  | xorb b => exact exec_bank_keeps_NZ (i := .xorb b) (Nat.succ_pos 7) hs h
  | comb b => exact hs.of_S_eq (exec_comb_frame h).1

theorem execWord_keeps_NZ {w : CmdWord} {s t : State} (hs : s.NZ) (h : execWord w s = .next t) : t.NZ := by
  cases hw : decode w with
  | ok i => exact exec_keeps_NZ hs ((execWord_ok hw s).symm.trans h)
  | error e =>
    rcases State.unlessHalted_inv ((execWord_error hw s).symm.trans h) with ⟨x, -, rfl⟩ | ⟨-, rfl⟩ <;>
      exact hs.of_S_eq rfl

theorem step_keeps_NZ {s t : State} (hs : s.NZ) (h : step s = .next t) : t.NZ := by
  rcases step_cases h with ⟨-, rfl⟩ | ⟨later, -, rfl⟩ | ⟨later, -, rfl⟩ | ⟨w, later, -, hw⟩
  · exact hs
  · exact hs.of_S_eq rfl
  · exact State.reset_NZ.of_S_eq rfl
  · exact execWord_keeps_NZ (s := { s with host := later }) (hs.of_S_eq rfl) hw

/-- Settles O18: the bank commands keep `NZ` by bit 31 of the masks, `KSEED` by the replaced zero seed, `LDS` by its refusal of 0,
and the other moves write no value into a Register. -/
theorem nonzeroInvariantIsKept : Obligations.NonzeroInvariantIsKept :=
  ⟨State.reset_NZ, fun _ _ hs h => step_keeps_NZ hs h⟩

/-! ### Who can see the accumulator (R29) -/

/-- Two cores that agree in everything the host can see, and differ at most in the value of `ACC`. -/
def State.SameButAcc (s u : State) : Prop := ∃ x : Option Word, u = { s with acc := x } ∧ s.acc.isSome = x.isSome

namespace State.SameButAcc

section
variable {s u : State} (h : s.SameButAcc u)
include h

/-- An operation that neither reads nor writes `ACC` keeps the two cores alike. -/
theorem of_acc_untouched {f : State → State} (hf : ∀ x, f { s with acc := x } = { f s with acc := x }) :
    (f s).SameButAcc (f u) := by
  obtain ⟨x, rfl, hx⟩ := h
  have hself : f s = { f s with acc := s.acc } := hf s.acc
  have hacc : (f s).acc = s.acc := by rw [hself]
  exact ⟨x, hf x, hacc ▸ hx⟩

theorem respond (d : Word) : (s.respond d).SameButAcc (u.respond d) :=
  h.of_acc_untouched (f := (·.respond d)) fun _ => rfl

theorem raise (f : Fault) : (s.raise f).SameButAcc (u.raise f) :=
  h.of_acc_untouched (f := (·.raise f)) fun _ => rfl

theorem suppress : s.suppress.SameButAcc u.suppress :=
  h.of_acc_untouched (f := State.suppress) fun _ => rfl

theorem writeReg (i : RegIdx) (v : Word) : (s.writeReg i v).SameButAcc (u.writeReg i v) :=
  h.of_acc_untouched (f := (·.writeReg i v)) fun _ => rfl

theorem writeBank (B : Bank) : (s.writeBank B).SameButAcc (u.writeBank B) :=
  h.of_acc_untouched (f := (·.writeBank B)) fun _ => rfl

theorem writeAccn (b : Bool) : (s.writeAccn b).SameButAcc (u.writeAccn b) :=
  h.of_acc_untouched (f := (·.writeAccn b)) fun _ => rfl

/-- The two cores may even write different values to `ACC`. -/
theorem writeAcc (v w : Word) : (s.writeAcc v).SameButAcc (u.writeAcc w) := by
  obtain ⟨x, rfl, -⟩ := h
  exact ⟨some w, rfl, rfl⟩

theorem restart : s.restart.SameButAcc u.restart := by
  obtain ⟨x, rfl, -⟩ := h
  exact ⟨none, rfl, rfl⟩

theorem accv_eq : s.acc.isSome = u.acc.isSome := by
  obtain ⟨x, rfl, hx⟩ := h
  exact hx

theorem S_eq : u.S = s.S := by
  obtain ⟨x, rfl, -⟩ := h
  rfl

theorem halted_eq : u.halted = s.halted := by
  obtain ⟨x, rfl, -⟩ := h
  rfl

theorem bank_eq : u.bank = s.bank := by
  obtain ⟨x, rfl, -⟩ := h
  rfl

theorem unlessHalted {f : State → State} (hf : (f s).SameButAcc (f u)) :
    (s.unlessHalted f).SameButAcc (u.unlessHalted f) := by
  unfold State.unlessHalted
  rw [h.halted_eq]
  split
  · exact h.suppress
  · exact hf

theorem withBank {f g : Bank → State} (hfg : ∀ B, (f B).SameButAcc (g B)) :
    (s.withBank f).SameButAcc (u.withBank g) := by
  unfold State.withBank
  rw [h.bank_eq]
  split
  · exact h.raise _
  · exact hfg _

theorem withReg (idx : Nibble) {f g : RegIdx → State} (hfg : ∀ i, (f i).SameButAcc (g i)) :
    (s.withReg idx f).SameButAcc (u.withReg idx g) := by
  unfold State.withReg
  split
  · exact h.raise _
  · exact hfg _

theorem kinit (cfg : Cfg) : (Machine.kinit cfg s).SameButAcc (Machine.kinit cfg u) :=
  ((h.writeAcc cfg.salt cfg.salt).writeAccn false).respond 0#32

/-- `KABS` answers by `ACCV` alone, and its new accumulator is again seen by nobody (R107). -/
theorem kabs (b : Byte) : (Machine.kabs b s).SameButAcc (Machine.kabs b u) := by
  cases hs : s.acc with
  | none =>
    have hu : u.acc = none := by simpa [hs] using h.accv_eq
    rw [kabs_none hs, kabs_none hu]
    exact h.raise .noacc
  | some v =>
    obtain ⟨w, hu⟩ : ∃ w, u.acc = some w := Option.isSome_iff_exists.1 (by rw [← h.accv_eq, hs]; rfl)
    rw [kabs_some hs, kabs_some hu]
    exact ((h.writeAcc _ _).writeAccn true).respond 0#32

theorem lds (idx : Nibble) (v : Word) : (Machine.lds idx v s).SameButAcc (Machine.lds idx v u) := by
  refine h.withReg idx fun i => ?_
  split
  · exact h.raise _
  · exact (h.writeReg i v).respond 0#32

theorem rds (idx : Nibble) : (Machine.rds idx s).SameButAcc (Machine.rds idx u) := by
  refine h.withReg idx fun i => ?_
  simp only [State.readReg, h.S_eq]
  cases s.S[i] with
  | none => exact h.raise .unkeyed
  | some v => exact h.respond v

/-- Every command but `KSEED`, on halted cores as on running ones, keeps the two alike (R29). -/
theorem exec {i : Instr} (hi : i ≠ .kseed) :
    ∃ t t', Machine.exec i s = .next t ∧ Machine.exec i u = .next t' ∧ t.SameButAcc t' := by
  cases i with
  | rst => exact ⟨_, _, rfl, rfl, h.restart.respond 0#32⟩
  | kinit => exact ⟨_, _, rfl, rfl, h.unlessHalted (h.kinit _)⟩
  | kabs b => exact ⟨_, _, rfl, rfl, h.unlessHalted (h.kabs b)⟩
  | kseed => exact absurd rfl hi
  | lds idx v => exact ⟨_, _, rfl, rfl, h.unlessHalted (h.lds idx v)⟩
  | rds idx => exact ⟨_, _, rfl, rfl, h.unlessHalted (h.rds idx)⟩
  | clk => exact ⟨_, _, rfl, rfl, h.unlessHalted (h.withBank fun B => (h.writeBank _).respond _)⟩
  | nextb => exact ⟨_, _, rfl, rfl, h.unlessHalted (h.withBank fun B => (h.writeBank _).respond _)⟩
  | xorb b => exact ⟨_, _, rfl, rfl, h.unlessHalted (h.withBank fun B => (h.writeBank _).respond _)⟩
  | comb b => exact ⟨_, _, rfl, rfl, h.unlessHalted (h.respond _)⟩

theorem execWord {w : CmdWord} (hw : decode w ≠ .ok .kseed) :
    ∃ t t', Machine.execWord w s = .next t ∧ Machine.execWord w u = .next t' ∧ t.SameButAcc t' := by
  cases hd : decode w with
  | ok i =>
    simp only [execWord_ok hd]
    exact h.exec fun hi => hw (hi ▸ hd)
  | error e =>
    simp only [execWord_error hd]
    exact ⟨_, _, rfl, rfl, h.unlessHalted (h.raise .illegal)⟩

end

end State.SameButAcc

/-- Settles O58: the two cores start alike but for `ACC`, every operation of a command other than `KSEED` keeps them so, and such
states have one response between them. -/
theorem accumulatorIsSeenOnlyThroughSeeds : Obligations.AccumulatorIsSeenOnlyThroughSeeds := by
  intro s a b w hw
  have hstart : State.SameButAcc { s with acc := some a } { s with acc := some b } := ⟨some b, rfl, rfl⟩
  obtain ⟨t, t', ht, ht', x, rfl, hx⟩ := hstart.execWord hw
  exact ⟨t, t.acc, x, ht, ht', hx⟩

end Sys2Proof.Machine
end

section
/-! SUPPORT. The statements of 20_memory.md (rules R47, R50): the Registers step in any order, and several cores side by side do not
interact. -/

namespace Sys2Proof.Machine

/-! ### One clock, Register after Register (R47) -/

/-- What a bank and the bits collected so far hold in one Register's place. -/
def slot (p : Bank × Vector Bool NREG) (i : RegIdx) : Word × Bool := (p.1[i], p.2[i])

theorem stepOne_slot_same (cfg : Cfg) (p : Bank × Vector Bool NREG) (i : RegIdx) :
    slot (stepOne cfg p i) i = lfsrStep cfg.mask[i] p.1[i] := by
  simp [slot, stepOne]

theorem stepOne_slot_other (cfg : Cfg) (p : Bank × Vector Bool NREG) {i j : RegIdx} (h : j ≠ i) :
    slot (stepOne cfg p j) i = slot p i := by
  have hval : j.val ≠ i.val := Fin.val_ne_of_ne h
  simp [slot, stepOne, hval]

/-- A Register not listed keeps its place. -/
theorem stepInOrder_slot_of_not_mem (cfg : Cfg) {order : List RegIdx} (p : Bank × Vector Bool NREG) {i : RegIdx}
    (h : i ∉ order) : slot (stepInOrder cfg order p) i = slot p i := by
  induction order generalizing p with
  | nil => rfl
  | cons j rest ih =>
    have hrest : i ∉ rest := List.not_mem_of_not_mem_cons h
    have hji : j ≠ i := (List.ne_of_not_mem_cons h).symm
    exact (ih (stepOne cfg p j) hrest).trans (stepOne_slot_other cfg p hji)

/-- A Register listed once makes one step from its own old state, whatever steps before or after it. -/
theorem stepInOrder_slot_of_mem (cfg : Cfg) {order : List RegIdx} (hnodup : order.Nodup) (p : Bank × Vector Bool NREG)
    {i : RegIdx} (h : i ∈ order) : slot (stepInOrder cfg order p) i = lfsrStep cfg.mask[i] p.1[i] := by
  induction order generalizing p with
  | nil => exact absurd h List.not_mem_nil
  | cons j rest ih =>
    obtain ⟨hj, hrest⟩ := List.nodup_cons.1 hnodup
    rcases List.mem_cons.1 h with rfl | hi
    · exact (stepInOrder_slot_of_not_mem cfg (stepOne cfg p i) hj).trans (stepOne_slot_same cfg p i)
    · have hji : j ≠ i := fun he => hj (he ▸ hi)
      have hstate : (stepOne cfg p j).1[i] = p.1[i] := congrArg Prod.fst (stepOne_slot_other cfg p hji)
      exact (ih hrest (stepOne cfg p j) hi).trans (by rw [hstate])

/-- Settles O50: a permutation lists every Register exactly once, so each place holds that Register's one step. -/
theorem stepOrderDoesNotMatter : Obligations.StepOrderDoesNotMatter := by
  intro cfg B bits order hperm
  have hslot : ∀ i : RegIdx, slot (stepInOrder cfg order (B, bits)) i = lfsrStep cfg.mask[i] B[i] := fun i =>
    stepInOrder_slot_of_mem cfg (hperm.nodup_iff.2 (List.nodup_finRange NREG)) (B, bits)
      (hperm.mem_iff.2 (List.mem_finRange i))
  constructor
  · ext1 k hk
    exact (congrArg Prod.fst (hslot ⟨k, hk⟩)).trans (stepAll_bank cfg B ⟨k, hk⟩).symm
  · intro i
    exact (congrArg Prod.snd (hslot i)).trans (stepAll_bits cfg B i).symm

/-! ### Several cores (R50) -/

theorem exec_next (i : Instr) (s : State) : ∃ t, exec i s = .next t := by
  cases i <;> exact ⟨_, rfl⟩

theorem execWord_next (w : CmdWord) (s : State) : ∃ t, execWord w s = .next t := by
  cases hw : decode w with
  | ok i => exact execWord_ok hw s ▸ exec_next i s
  | error e => exact ⟨_, execWord_error hw s⟩

/-- Every step answers a next state (R178). -/
theorem step_next (s : State) : ∃ t, step s = .next t := by
  unfold step
  split
  · exact ⟨_, rfl⟩
  · exact ⟨_, rfl⟩
  · exact ⟨_, rfl⟩
  · exact execWord_next _ _

/-- A run of one step more, from the state the step leads to. -/
theorem run_succ_of_step {M : Host.Core} {s t : M.State} (h : M.step s = .next t) (n : Nat) :
    M.run (n + 1) s = M.run n t := by
  rw [Host.Core.run, h]

theorem stepCore_eq_set {cores : List State} {k : Nat} {s t : State} (hk : cores[k]? = some s) (h : step s = .next t) :
    stepCore k cores = cores.set k t := by
  simp only [stepCore, hk, h]

theorem stepCore_same {cores : List State} {k : Nat} {s t : State} (hk : cores[k]? = some s) (h : step s = .next t) :
    (stepCore k cores)[k]? = some t := by
  obtain ⟨hlt, -⟩ := List.getElem?_eq_some_iff.1 hk
  rw [stepCore_eq_set hk h, List.getElem?_set_self hlt]

theorem stepCore_other (cores : List State) {j k : Nat} (h : j ≠ k) : (stepCore j cores)[k]? = cores[k]? := by
  cases hj : cores[j]? with
  | none => simp only [stepCore, hj]
  | some s =>
    obtain ⟨t, ht⟩ := step_next s
    rw [stepCore_eq_set hj ht, List.getElem?_set_ne h]

/-- Settles O56, by induction on the schedule: a step of core `k` is the next step of its own run, and a step of another core
leaves it alone. -/
theorem coresDoNotInteract : Obligations.CoresDoNotInteract := by
  intro schedule
  induction schedule with
  | nil => exact fun _ _ s hk => ⟨s, rfl, hk⟩
  | cons j rest ih =>
    intro cores k s hk
    by_cases hjk : j = k
    · subst hjk
      obtain ⟨u, hu⟩ := step_next s
      rw [List.count_cons_self, run_succ_of_step (M := core) hu]
      exact ih _ _ _ (stepCore_same hk hu)
    · rw [List.count_cons_of_ne hjk]
      exact ih _ _ _ ((stepCore_other cores hjk).trans hk)

end Sys2Proof.Machine
end

section
/-! SUPPORT. The statements of 30_encoding.md (rules R55 to R62): decoder and encoder undo one another, the decoder is the case table
of R60, and the opcode table and the four cases of R61 follow from it. -/

namespace Sys2Proof

/-! ### The decoder by opcode and format (R58, R60) -/

/-- The command the opcode of a word names, its operands read from the word, whether or not the word keeps the format (R58, R59). -/
def namedCommand (w : CmdWord) : Option Instr :=
  match (opOf w).toNat with
  | 0x1 => some .rst
  | 0x2 => some .kinit
  | 0x3 => some (.kabs (imm8Of w))
  | 0x4 => some .kseed
  | 0x5 => some (.lds (idxOf w) (immOf w))
  | 0x6 => some (.rds (idxOf w))
  | 0x7 => some .clk
  | 0x8 => some .nextb
  | 0x9 => some (.xorb (imm8Of w))
  | 0xA => some (.comb (imm11Of w))
  | _ => none

theorem decode_eq_namedCommand (w : CmdWord) :
    decode w = (namedCommand w).elim (.error .reservedOpcode) fun i => checkedAs i w := by
  unfold decode namedCommand
  split <;> simp only [*, Option.elim]

/-- A word decodes to `i` exactly when its opcode and operands name `i` and it keeps the format of `i` (R60). -/
theorem decode_ok_iff {w : CmdWord} {i : Instr} :
    decode w = .ok i ↔ namedCommand w = some i ∧ formatError i.format w = none := by
  rw [decode_eq_namedCommand]
  cases namedCommand w with
  | none => simp
  | some j =>
    simp only [Option.elim_some, Option.some.injEq, checkedAs_ok_iff]
    constructor <;> · rintro ⟨rfl, h⟩; exact ⟨rfl, h⟩

/-- A word does not decode exactly when it breaks the format of the command its opcode names, if there is one (R61). -/
theorem decode_error_iff (w : CmdWord) :
    (∃ e, decode w = .error e) ↔ ∀ i, namedCommand w = some i → formatError i.format w ≠ none := by
  have h : (∃ e, decode w = .error e) ↔ ∀ i, decode w ≠ .ok i := by cases decode w <;> simp
  simp only [h, ne_eq, decode_ok_iff, not_and]

/-! ### Words and their commands (R58 to R60) -/

@[simp] theorem imm8Of_mkWord_setWidth (op idx : Nibble) (b : Byte) : imm8Of (mkWord op idx (b.setWidth 32)) = b := by
  rw [imm8Of_eq, immOf_mkWord, BitVec.toNat_setWidth_of_le (by decide), BitVec.ofNat_toNat, BitVec.setWidth_eq]

@[simp] theorem imm11Of_mkWord_setWidth (op idx : Nibble) (t : Bits11) :
    imm11Of (mkWord op idx (t.setWidth 32)) = t := by
  rw [imm11Of_eq, immOf_mkWord, BitVec.toNat_setWidth_of_le (by decide), BitVec.ofNat_toNat, BitVec.setWidth_eq]

theorem formatError_B_mkWord (op : Nibble) (b : Byte) : formatError .B (mkWord op 0#4 (b.setWidth 32)) = none := by
  rw [formatError_B_iff, idxOf_mkWord, immOf_mkWord, BitVec.toNat_setWidth_of_le (by decide)]
  exact ⟨rfl, b.isLt⟩

theorem formatError_T_mkWord (op : Nibble) (t : Bits11) : formatError .T (mkWord op 0#4 (t.setWidth 32)) = none := by
  rw [formatError_T_iff, idxOf_mkWord, immOf_mkWord, BitVec.toNat_setWidth_of_le (by decide)]
  exact ⟨rfl, t.isLt⟩

theorem namedCommand_encode (i : Instr) : namedCommand (encode i) = some i := by
  cases i <;> simp [namedCommand, encode]

/-- The word of a command keeps the command's format exactly when the command is well-formed (R56, R58). -/
theorem formatError_encode_iff (i : Instr) : formatError i.format (encode i) = none ↔ i.wf = true := by
  cases i with
  | lds idx v => simp [Instr.format, encode, Instr.wf, formatError_RI_iff, legalIdx_iff]
  | rds idx => simp [Instr.format, encode, Instr.wf, formatError_R_iff, legalIdx_iff]
  | kabs b => exact iff_of_true (formatError_B_mkWord _ b) rfl
  | xorb b => exact iff_of_true (formatError_B_mkWord _ b) rfl
  | comb t => exact iff_of_true (formatError_T_mkWord _ t) rfl
  | _ => simp [Instr.format, encode, Instr.wf, formatError_Z_iff]

/-- Settles O1: the word of a command names the command, and keeps its format when the command is well-formed. -/
theorem encodedCommandDecodesToItself : Obligations.EncodedCommandDecodesToItself :=
  fun i h => decode_ok_iff.2 ⟨namedCommand_encode i, (formatError_encode_iff i).2 h⟩

/-- `imm` is an operand of `n` bits, zero-extended, when no higher bit is set (R56, R59). -/
theorem setWidth_ofNat_toNat {n : Nat} {v : Word} (h : v.toNat < 2 ^ n) :
    (BitVec.ofNat n v.toNat).setWidth 32 = v := by
  apply BitVec.eq_of_toNat_eq
  rw [BitVec.toNat_setWidth, BitVec.toNat_ofNat, Nat.mod_eq_of_lt h, Nat.mod_eq_of_lt v.isLt]

/-! A word that keeps a format is spelled by its opcode and the operands of the format. -/

section
variable {w : CmdWord} {op : Nibble} (hop : (opOf w).toNat = op.toNat)
include hop

theorem mkWord_eq_of_fields {idx : Nibble} {imm : Word} (hidx : (idxOf w).toNat = idx.toNat) (himm : immOf w = imm) :
    mkWord op idx imm = w := by
  rw [← mkWord_fields w, BitVec.eq_of_toNat_eq hop, BitVec.eq_of_toNat_eq hidx, himm]

theorem mkWord_eq_of_Z (h : formatError .Z w = none) : mkWord op 0#4 0#32 = w := by
  obtain ⟨hidx, himm⟩ := (formatError_Z_iff w).1 h
  exact mkWord_eq_of_fields hop hidx (BitVec.eq_of_toNat_eq himm)

theorem mkWord_eq_of_B (h : formatError .B w = none) : mkWord op 0#4 ((imm8Of w).setWidth 32) = w := by
  obtain ⟨hidx, himm⟩ := (formatError_B_iff w).1 h
  rw [imm8Of_eq, setWidth_ofNat_toNat himm]
  exact mkWord_eq_of_fields hop hidx rfl

theorem mkWord_eq_of_R (h : formatError .R w = none) : mkWord op (idxOf w) 0#32 = w := by
  obtain ⟨-, himm⟩ := (formatError_R_iff w).1 h
  exact mkWord_eq_of_fields hop rfl (BitVec.eq_of_toNat_eq himm)

theorem mkWord_eq_of_T (h : formatError .T w = none) : mkWord op 0#4 ((imm11Of w).setWidth 32) = w := by
  obtain ⟨hidx, himm⟩ := (formatError_T_iff w).1 h
  rw [imm11Of_eq, setWidth_ofNat_toNat himm]
  exact mkWord_eq_of_fields hop hidx rfl

end

theorem encode_of_namedCommand {w : CmdWord} {i : Instr} (hname : namedCommand w = some i)
    (hformat : formatError i.format w = none) : encode i = w := by
  unfold namedCommand at hname
  split at hname <;> cases hname
  case h_1 hop => exact mkWord_eq_of_Z hop hformat
  case h_2 hop => exact mkWord_eq_of_Z hop hformat
  case h_3 hop => exact mkWord_eq_of_B hop hformat
  case h_4 hop => exact mkWord_eq_of_Z hop hformat
  case h_5 hop => exact mkWord_eq_of_fields hop rfl rfl
  case h_6 hop => exact mkWord_eq_of_R hop hformat
  case h_7 hop => exact mkWord_eq_of_Z hop hformat
  case h_8 hop => exact mkWord_eq_of_Z hop hformat
  case h_9 hop => exact mkWord_eq_of_B hop hformat
  case h_10 hop => exact mkWord_eq_of_T hop hformat

/-- Settles O2: opcode, operands and the zeros of the format are all of the word, so it is the word of its command; and the word of
a command keeps the format only when the command is well-formed. -/
theorem legalWordIsTheWordOfItsCommand : Obligations.LegalWordIsTheWordOfItsCommand := by
  intro w i h
  obtain ⟨hname, hformat⟩ := decode_ok_iff.1 h
  have hword : encode i = w := encode_of_namedCommand hname hformat
  exact ⟨hword, (formatError_encode_iff i).1 (hword ▸ hformat)⟩

theorem encode_injective_of_wf {i j : Instr} (hi : i.wf = true) (hj : j.wf = true) (h : encode i = encode j) : i = j := by
  have hdecode : decode (encode i) = decode (encode j) := congrArg decode h
  rwa [encodedCommandDecodesToItself i hi, encodedCommandDecodesToItself j hj, Except.ok.injEq] at hdecode

/-! ### The case table (R60, R61) -/

/-- R60's case table over the three fields, read as numbers. -/
def caseTable (op idx imm : Nat) : Option Instr :=
  if op = 0x1 ∧ idx = 0 ∧ imm = 0 then some .rst
  else if op = 0x2 ∧ idx = 0 ∧ imm = 0 then some .kinit
  else if op = 0x3 ∧ idx = 0 ∧ imm < 256 then some (.kabs (BitVec.ofNat 8 imm))
  else if op = 0x4 ∧ idx = 0 ∧ imm = 0 then some .kseed
  else if op = 0x5 ∧ idx ≤ 10 then some (.lds (BitVec.ofNat 4 idx) (BitVec.ofNat 32 imm))
  else if op = 0x6 ∧ idx ≤ 10 ∧ imm = 0 then some (.rds (BitVec.ofNat 4 idx))
  else if op = 0x7 ∧ idx = 0 ∧ imm = 0 then some .clk
  else if op = 0x8 ∧ idx = 0 ∧ imm = 0 then some .nextb
  else if op = 0x9 ∧ idx = 0 ∧ imm < 256 then some (.xorb (BitVec.ofNat 8 imm))
  else if op = 0xA ∧ idx = 0 ∧ imm < 2048 then some (.comb (BitVec.ofNat 11 imm))
  else none

theorem decode_toOption_eq_bind (w : CmdWord) : (decode w).toOption =
    (namedCommand w).bind fun i => if formatError i.format w = none then some i else none := by
  rw [decode_eq_namedCommand]
  cases namedCommand w with
  | none => rfl
  | some i => cases h : formatError i.format w <;> simp [checkedAs, h, Except.toOption]

/-- The opcode picks the row, and the row's condition is what the format asks of the other two fields (R56, R60). -/
theorem decode_toOption (w : CmdWord) :
    (decode w).toOption = caseTable (opOf w).toNat (idxOf w).toNat (immOf w).toNat := by
  rw [decode_toOption_eq_bind]
  unfold namedCommand caseTable
  split
  case h_11 =>
    simp only [imp_false] at *
    simp only [*, false_and, if_false, Option.bind_none]
  all_goals simp [*, Instr.format, formatError_Z_iff, formatError_B_iff, formatError_R_iff,
    formatError_RI_iff, formatError_T_iff, imm8Of_eq, imm11Of_eq]

/-! ### The number of legal words (R60) -/

/-- The operands of the well-formed commands: five commands have none, `KABS` and `XORB` have a byte each, and then come those of
`LDS`, of `RDS` and of `COMB` (R58). -/
abbrev LegalOperands := Fin 5 ⊕ (Fin 2 × Byte) ⊕ (RegIdx × Word) ⊕ RegIdx ⊕ Bits11

/-- The number of the Register that a legal index names (R59). -/
def legalReg (idx : Nibble) (h : legalIdx idx = true) : RegIdx := ⟨idx.toNat, of_decide_eq_true h⟩

theorem toNat_ofNat_regIdx (i : RegIdx) : (BitVec.ofNat 4 i.val).toNat = i.val :=
  (Machine.regIdx_eq_some_iff _ i).1 (Machine.regIdx_ofNat i)

theorem legalIdx_ofNat (i : RegIdx) : legalIdx (BitVec.ofNat 4 i.val) = true := by
  rw [legalIdx, toNat_ofNat_regIdx]
  exact decide_eq_true i.isLt

theorem legalReg_ofNat (i : RegIdx) : legalReg (BitVec.ofNat 4 i.val) (legalIdx_ofNat i) = i :=
  Fin.ext (toNat_ofNat_regIdx i)

theorem ofNat_legalReg (idx : Nibble) (h : legalIdx idx = true) : BitVec.ofNat 4 (legalReg idx h).val = idx := by
  rw [legalReg, BitVec.ofNat_toNat, BitVec.setWidth_eq]

/-- A well-formed command, told from the others by its operands. -/
def operandsOf : { i : Instr // i.wf = true } → LegalOperands
  | ⟨.rst, _⟩ => .inl 0
  | ⟨.kinit, _⟩ => .inl 1
  | ⟨.kseed, _⟩ => .inl 2
  | ⟨.clk, _⟩ => .inl 3
  | ⟨.nextb, _⟩ => .inl 4
  | ⟨.kabs b, _⟩ => .inr (.inl (0, b))
  | ⟨.xorb b, _⟩ => .inr (.inl (1, b))
  | ⟨.lds idx v, h⟩ => .inr (.inr (.inl (legalReg idx h, v)))
  | ⟨.rds idx, h⟩ => .inr (.inr (.inr (.inl (legalReg idx h))))
  | ⟨.comb t, _⟩ => .inr (.inr (.inr (.inr t)))

/-- The well-formed command with the given operands. -/
def commandOf : LegalOperands → { i : Instr // i.wf = true }
  | .inl k => ![⟨.rst, rfl⟩, ⟨.kinit, rfl⟩, ⟨.kseed, rfl⟩, ⟨.clk, rfl⟩, ⟨.nextb, rfl⟩] k
  | .inr (.inl (k, b)) => ![⟨.kabs b, rfl⟩, ⟨.xorb b, rfl⟩] k
  | .inr (.inr (.inl (i, v))) => ⟨.lds (BitVec.ofNat 4 i.val) v, legalIdx_ofNat i⟩
  | .inr (.inr (.inr (.inl i))) => ⟨.rds (BitVec.ofNat 4 i.val), legalIdx_ofNat i⟩
  | .inr (.inr (.inr (.inr t))) => ⟨.comb t, rfl⟩

theorem commandOf_operandsOf : Function.LeftInverse commandOf operandsOf := by
  rintro ⟨i, hi⟩
  cases i with
  | lds idx v => exact Subtype.ext (congrArg (Instr.lds · v) (ofNat_legalReg idx hi))
  | rds idx => exact Subtype.ext (congrArg Instr.rds (ofNat_legalReg idx hi))
  | _ => rfl

theorem operandsOf_commandOf : Function.RightInverse commandOf operandsOf := by
  rintro (k | ⟨k, b⟩ | ⟨i, v⟩ | i | t)
  · fin_cases k <;> rfl
  · fin_cases k <;> rfl
  · simp only [operandsOf, commandOf, legalReg_ofNat]
  · simp only [operandsOf, commandOf, legalReg_ofNat]
  · rfl

theorem card_bitVec (n : Nat) : Nat.card (BitVec n) = 2 ^ n :=
  (Nat.card_congr BitVec.equivFin.toEquiv).trans (Nat.card_fin _)

theorem card_wf : Nat.card { i : Instr // i.wf = true } = 5 + 2 * 256 + 11 * 2 ^ 32 + 11 + 2048 :=
  calc Nat.card { i : Instr // i.wf = true }
    _ = Nat.card LegalOperands :=
      Nat.card_congr ⟨operandsOf, commandOf, commandOf_operandsOf, operandsOf_commandOf⟩
    _ = 5 + (2 * 2 ^ 8 + (11 * 2 ^ 32 + (11 + 2 ^ 11))) := by
      simp only [Nat.card_sum, Nat.card_prod, Nat.card_fin, card_bitVec]
    _ = _ := by norm_num

/-- The legal words are the words of the well-formed commands. -/
def wordOfWf (i : { i : Instr // i.wf = true }) : { w : CmdWord // ∃ i, decode w = .ok i } :=
  ⟨encode i.val, i.val, encodedCommandDecodesToItself i.val i.property⟩

theorem wordOfWf_bijective : Function.Bijective wordOfWf := by
  constructor
  · exact fun i j h => Subtype.ext (encode_injective_of_wf i.property j.property (congrArg Subtype.val h))
  · rintro ⟨w, i, h⟩
    obtain ⟨hword, hwf⟩ := legalWordIsTheWordOfItsCommand w i h
    exact ⟨⟨i, hwf⟩, Subtype.ext hword⟩

/-- Settles O3: the case table row by row; the rest is that legal words and well-formed commands correspond one to one. -/
theorem decoderIsTheCaseTable : Obligations.DecoderIsTheCaseTable := by
  refine ⟨fun w => ?_, fun v w i hv hw => ?_, fun w i h => (legalWordIsTheWordOfItsCommand w i h).1, ?_⟩
  · rw [decode_toOption, opOf_toNat, idxOf_toNat, immOf_toNat]
    rfl
  · exact (legalWordIsTheWordOfItsCommand v i hv).1.symm.trans (legalWordIsTheWordOfItsCommand w i hw).1
  · rw [← Nat.card_eq_of_bijective wordOfWf wordOfWf_bijective, card_wf]

/-! ### The opcode table (R58) -/

/-- The bits of `idx` that a row of the format fixes at 0 (R56, R58). -/
def Format.idxMask : Format → Nibble
  | .Z | .B | .T => 0xF#4
  | .R | .RI => 0#4

/-- The bits of `imm` that a row of the format fixes at 0 (R56, R58). -/
def Format.immMask : Format → Word
  | .Z | .R => 0xFFFFFFFF#32
  | .B => 0xFFFFFF00#32
  | .RI => 0#32
  | .T => 0xFFFFF800#32

theorem opcodeTable_masks : ∀ r ∈ opcodeTable, r.pattern = mkWord (opOf r.pattern) 0#4 0#32 ∧
    r.mask = mkWord 0xF#4 r.format.idxMask r.format.immMask := by
  decide

theorem opcodeTable_mnemonic_injective : ∀ r ∈ opcodeTable, ∀ r' ∈ opcodeTable, r.mnemonic = r'.mnemonic → r = r' := by
  decide

/-- A value with no bit of a mask is at most the mask's complement. -/
theorem toNat_le_of_and_eq_zero {n : Nat} {v m : BitVec n} (h : v &&& m = 0#n) : v.toNat ≤ (~~~m).toNat := by
  have hv : v &&& ~~~m = v := by
    apply BitVec.eq_of_getLsbD_eq
    intro k hk
    have hbit : (v &&& m).getLsbD k = false := h ▸ BitVec.getLsbD_zero
    simpa [hk] using hbit
  rw [← hv, BitVec.toNat_and]
  exact Nat.and_le_right

theorem OpcodeRow.accepts_iff (r : OpcodeRow) (w : CmdWord) : r.accepts w = true ↔
    w &&& r.mask = r.pattern ∧ (r.format = .R ∨ r.format = .RI → legalIdx (idxOf w) = true) := by
  unfold OpcodeRow.accepts
  cases r.format <;> simp

theorem fields_of_masked {r : OpcodeRow} (hr : r ∈ opcodeTable) {w : CmdWord} (h : w &&& r.mask = r.pattern) :
    opOf w = opOf r.pattern ∧ idxOf w &&& r.format.idxMask = 0#4 ∧ immOf w &&& r.format.immMask = 0#32 := by
  obtain ⟨hpattern, hmask⟩ := opcodeTable_masks r hr
  have hmasked : mkWord (opOf w &&& 0xF#4) (idxOf w &&& r.format.idxMask) (immOf w &&& r.format.immMask) =
      mkWord (opOf r.pattern) 0#4 0#32 := by
    rw [← mkWord_and, mkWord_fields, ← hmask, ← hpattern, h]
  have hop := congrArg opOf hmasked
  have hidx := congrArg idxOf hmasked
  have himm := congrArg immOf hmasked
  simp only [opOf_mkWord, idxOf_mkWord, immOf_mkWord] at hop hidx himm
  exact ⟨(BitVec.and_allOnes (x := opOf w)).symm.trans hop, hidx, himm⟩

theorem formatError_of_masked {f : Format} {w : CmdWord} (hidx : idxOf w &&& f.idxMask = 0#4)
    (himm : immOf w &&& f.immMask = 0#32) (hlegal : f = .R ∨ f = .RI → legalIdx (idxOf w) = true) :
    formatError f w = none := by
  have hidx := toNat_le_of_and_eq_zero hidx
  have himm := toNat_le_of_and_eq_zero himm
  cases f with
  | Z => exact (formatError_Z_iff w).2 ⟨Nat.le_zero.1 hidx, Nat.le_zero.1 himm⟩
  | B => exact (formatError_B_iff w).2 ⟨Nat.le_zero.1 hidx, Nat.lt_succ_of_le himm⟩
  | R => exact (formatError_R_iff w).2 ⟨(legalIdx_iff _).1 (hlegal (.inl rfl)), Nat.le_zero.1 himm⟩
  | RI => exact (formatError_RI_iff w).2 ((legalIdx_iff _).1 (hlegal (.inr rfl)))
  | T => exact (formatError_T_iff w).2 ⟨Nat.le_zero.1 hidx, Nat.lt_succ_of_le himm⟩

theorem namedCommand_of_row {r : OpcodeRow} (hr : r ∈ opcodeTable) {w : CmdWord} (hop : opOf w = opOf r.pattern) :
    ∃ i, namedCommand w = some i ∧ i.mnemonic = r.mnemonic ∧ i.format = r.format := by
  simp only [opcodeTable, List.mem_cons, List.not_mem_nil, or_false] at hr
  unfold namedCommand
  rw [hop]
  rcases hr with rfl | rfl | rfl | rfl | rfl | rfl | rfl | rfl | rfl | rfl <;> exact ⟨_, rfl, rfl, rfl⟩

/-- The per-command lemmas of Laws/PerInstr.lean put together (R58). -/
theorem tableRow (i : Instr) : Laws.TableRow.Statement i := by
  cases i with
  | rst => exact Laws.TableRow.rst
  | kinit => exact Laws.TableRow.kinit
  | kabs b => exact Laws.TableRow.kabs b
  | kseed => exact Laws.TableRow.kseed
  | lds idx v => exact Laws.TableRow.lds idx v
  | rds idx => exact Laws.TableRow.rds idx
  | clk => exact Laws.TableRow.clk
  | nextb => exact Laws.TableRow.nextb
  | xorb b => exact Laws.TableRow.xorb b
  | comb t => exact Laws.TableRow.comb t

theorem accepts_iff_decode {r : OpcodeRow} (hr : r ∈ opcodeTable) (w : CmdWord) :
    r.accepts w = true ↔ ∃ i, decode w = .ok i ∧ i.mnemonic = r.mnemonic := by
  rw [OpcodeRow.accepts_iff]
  constructor
  · rintro ⟨hmasked, hlegal⟩
    obtain ⟨hop, hidx, himm⟩ := fields_of_masked hr hmasked
    obtain ⟨i, hname, hmnemonic, hformat⟩ := namedCommand_of_row hr hop
    exact ⟨i, decode_ok_iff.2 ⟨hname, hformat ▸ formatError_of_masked hidx himm hlegal⟩, hmnemonic⟩
  · rintro ⟨i, hi, hmnemonic⟩
    obtain ⟨rfl, hwf⟩ := legalWordIsTheWordOfItsCommand w i hi
    obtain ⟨r', hr', hmnemonic', hformat, hmasked⟩ := tableRow i
    obtain rfl := opcodeTable_mnemonic_injective r' hr' r hr (hmnemonic'.trans hmnemonic)
    refine ⟨hmasked, fun hidx => ?_⟩
    have hkept := (decode_ok_iff.1 hi).2
    rw [← hformat] at hkept
    rw [legalIdx_iff]
    rcases hidx with h | h <;> rw [h] at hkept
    · exact ((formatError_R_iff _).1 hkept).1
    · exact (formatError_RI_iff _).1 hkept

/-- Settles O4: the first clause is `accepts_iff_decode`; a word that matched two rows would decode to one command with two
mnemonics. -/
theorem opcodeTableSelectsTheCommand : Obligations.OpcodeTableSelectsTheCommand := by
  refine ⟨fun w r hr => accepts_iff_decode hr w, fun w r r' hr hr' h h' => ?_⟩
  obtain ⟨i, hi, hmnemonic⟩ := (accepts_iff_decode hr w).1 h
  obtain ⟨i', hi', hmnemonic'⟩ := (accepts_iff_decode hr' w).1 h'
  obtain rfl : i = i' := Except.ok.inj (hi.symm.trans hi')
  exact opcodeTable_mnemonic_injective r hr r' hr' (hmnemonic.symm.trans hmnemonic')

/-! ### Words that do not decode, and indexes out of range (R61, R62) -/

namespace Machine

/-- A word that does not decode raises `ILLEGAL` on a running core (R61, R173). -/
theorem execWord_error_running {w : CmdWord} {e : DecodeError} {s : State} (h : decode w = .error e)
    (hs : s.fault = none) : execWord w s = .next (s.raise .illegal) := by
  rw [execWord_error h, issueIllegal, State.unlessHalted_running hs]

/-- Settles O5: opcode by opcode, the word is in error when it breaks the format of the command its opcode names, if there is
one. -/
theorem undecodableWordRaisesIllegal : Obligations.UndecodableWordRaisesIllegal := by
  have hzeros : decode 0x0000000000#40 = .error .reservedOpcode := by decide
  have hones : decode 0xFFFFFFFFFF#40 = .error .reservedOpcode := by decide
  refine ⟨fun w => ?_, ⟨_, hzeros⟩, ⟨_, hones⟩, fun w e s h hs => execWord_error_running h hs⟩
  rw [decode_error_iff]
  unfold namedCommand
  split
  case h_11 =>
    simp only [imp_false] at *
    refine iff_of_true (fun _ h => nomatch h) (.inl ?_)
    omega
  all_goals
    simp only [Option.some.injEq, forall_eq', Instr.format, ne_eq, formatError_Z_iff, formatError_B_iff, formatError_R_iff,
      formatError_RI_iff, formatError_T_iff]
    omega

/-- Settles O6: a zero seed breaks no rule of the format, and `LDS` refuses it. -/
theorem ldsZeroIsLegalAndFaults : Obligations.LdsZeroIsLegalAndFaults := by
  intro idx hidx
  have hwf : (Instr.lds idx 0#32).wf = true := (legalIdx_iff idx).2 hidx
  refine ⟨encodedCommandDecodesToItself (.lds idx 0#32) hwf, fun s hs => ?_⟩
  have hreg : regIdx idx = some (legalReg idx hwf) := (regIdx_eq_some_iff _ _).2 rfl
  rw [exec, execLds, State.unlessHalted_running hs, lds_zero hreg]
  rfl

/-- Settles O7: no Register has such an index. -/
theorem outOfRangeIndexRaisesIllegal : Obligations.OutOfRangeIndexRaisesIllegal := by
  intro idx v s hidx hs
  rw [exec, exec, execLds, execRds, State.unlessHalted_running hs, State.unlessHalted_running hs, lds_illegal hidx,
    rds_illegal hidx]
  exact ⟨rfl, rfl⟩

end Machine

/-- Settles O8: each word is the word of its command. -/
theorem writtenWordsDecode : Obligations.WrittenWordsDecode :=
  ⟨encodedCommandDecodesToItself .rst rfl, encodedCommandDecodesToItself .kinit rfl,
    encodedCommandDecodesToItself (.kabs 0xFF#8) rfl, encodedCommandDecodesToItself .kseed rfl,
    encodedCommandDecodesToItself (.lds 10#4 1#32) rfl, encodedCommandDecodesToItself (.rds 10#4) rfl,
    encodedCommandDecodesToItself .clk rfl, encodedCommandDecodesToItself .nextb rfl,
    encodedCommandDecodesToItself (.xorb 0x48#8) rfl, encodedCommandDecodesToItself (.comb 0x7FF#11) rfl⟩

end Sys2Proof
end

section
/-! SUPPORT. The response to every word (rules R30, R57), runs of commands (R46, R60), and the pseudo-command `KEY` (R65, R101, R202). -/

namespace Sys2Proof.Machine

/-! ### Every word is answered (R30, R57) -/

/-- A command taken in state `s` and left in state `t` was answered as R57 says, and the host's moves to come are as they were. -/
def State.Answers (s t : State) : Prop := t.rsp.isSome = true ∧ t.PortOk ∧ t.host = s.host

namespace State.Answers

theorem respond {s u : State} (d : Word) (hfault : u.fault = none) (hhost : u.host = s.host) : s.Answers (u.respond d) := by
  refine ⟨rfl, ?_, hhost⟩
  rintro r ⟨⟩
  exact ⟨by simp [State.FAULT, hfault], fun h => absurd rfl h⟩

theorem raise (s : State) (f : Fault) : s.Answers (s.raise f) := by
  refine ⟨rfl, ?_, rfl⟩
  rintro r ⟨⟩
  exact ⟨rfl, fun _ => rfl⟩

theorem suppress (s : State) : s.Answers s.suppress := by
  refine ⟨rfl, ?_, rfl⟩
  rintro r ⟨⟩
  exact ⟨rfl, fun _ => rfl⟩

theorem unlessHalted {s : State} {f : State → State} (hf : s.fault = none → s.Answers (f s)) :
    s.Answers (s.unlessHalted f) := by
  unfold State.unlessHalted
  split
  · exact suppress s
  · next h => exact hf ((s.halted_eq_false_iff).1 (Bool.eq_false_iff.2 h))

/-- The commands that make clocks answer as every command does: with `UNKEYED`, or with what the new bank gives (R122). -/
theorem of_clocks_pos {i : Instr} (hi : 0 < clocks i) {s t : State} (h : exec i s = .next t) : s.Answers t := by
  obtain ⟨dout, hexec⟩ := exec_of_clocks_pos hi
  obtain rfl := Host.Outcome.next.inj ((hexec s).symm.trans h)
  refine unlessHalted fun hs => ?_
  rcases s.withBank_cases _ with he | ⟨B, -, he⟩ <;> rw [he]
  exacts [raise s _, respond _ hs rfl]

theorem exec {i : Instr} {s t : State} (h : exec i s = .next t) : s.Answers t := by
  cases i with
  | rst =>
    cases h
    exact respond _ rfl rfl
  | kinit =>
    cases h
    exact unlessHalted fun hs => respond _ hs rfl
  | kabs b =>
    cases h
    refine unlessHalted fun hs => ?_
    rcases kabs_cases b s with he | ⟨a, -, he⟩ <;> rw [he]
    exacts [raise s _, respond _ hs rfl]
  | kseed =>
    cases h
    refine unlessHalted fun hs => ?_
    rcases kseed_cases coreCfg s with ⟨f, he⟩ | ⟨a, -, he⟩ <;> rw [he]
    exacts [raise s _, respond _ hs rfl]
  | lds idx v =>
    cases h
    refine unlessHalted fun hs => ?_
    rcases lds_cases idx v s with ⟨f, he⟩ | ⟨i, -, -, he⟩ <;> rw [he]
    exacts [raise s _, respond _ hs rfl]
  | rds idx =>
    cases h
    refine unlessHalted fun hs => ?_
    rcases rds_cases idx s with ⟨f, he⟩ | ⟨i, v, -, -, he⟩ <;> rw [he]
    exacts [raise s _, respond _ hs rfl]
  | comb b =>
    cases h
    exact unlessHalted fun hs => respond _ hs rfl
  | _ => exact of_clocks_pos (by simp [clocks]) h

theorem execWord {w : CmdWord} {s t : State} (h : execWord w s = .next t) : s.Answers t := by
  cases hw : decode w with
  | ok i => exact exec ((execWord_ok hw s).symm.trans h)
  | error e =>
    obtain rfl := Host.Outcome.next.inj ((execWord_error hw s).symm.trans h)
    exact unlessHalted fun _ => raise s _

end State.Answers

/-- Settles O17: every operation a command can end with leaves a response that agrees with `FAULT`. -/
theorem everyWordIsAnswered : Obligations.EveryWordIsAnswered := by
  intro w s
  obtain ⟨t, ht⟩ := execWord_next w s
  obtain ⟨hrsp, hport, hhost⟩ := State.Answers.execWord ht
  obtain ⟨r, hr⟩ := Option.isSome_iff_exists.1 hrsp
  exact ⟨t, r, ht, hr, hhost, hport r hr⟩

/-! ### Runs (R46, R60) -/

theorem answered_execWord (w : CmdWord) (s : State) :
    ∃ t r, answered (execWord w s) = some (t, r) := by
  obtain ⟨t, r, ht, hr, -⟩ := everyWordIsAnswered w s
  exact ⟨t, r, by simp only [ht, answered, hr, Option.map_some]⟩

theorem run_cons {w : CmdWord} {ws : List CmdWord} {s t u : State} {r : Response} {rs : List Response}
    (h : answered (execWord w s) = some (t, r)) (hrest : run ws t = some (u, rs)) :
    run (w :: ws) s = some (u, r :: rs) := by
  simp only [run, h, hrest]

/-- A run never gets stuck: every word is answered (R57, R178). -/
theorem run_next (ws : List CmdWord) (s : State) : ∃ t rs, run ws s = some (t, rs) := by
  induction ws generalizing s with
  | nil => exact ⟨s, [], rfl⟩
  | cons w ws ih =>
    obtain ⟨t, r, h⟩ := answered_execWord w s
    obtain ⟨u, rs, hrest⟩ := ih t
    exact ⟨u, r :: rs, run_cons h hrest⟩

/-- A run of a well-formed command and then others starts with what the command means (R60). -/
theorem runCommands_cons {i : Instr} (hi : i.wf = true) {is : List Instr} {s t u : State} {r : Response}
    {rs : List Response} (h : Machine.exec i s = .next t) (hr : t.rsp = some r) (hrest : runCommands is t = some (u, rs)) :
    runCommands (i :: is) s = some (u, r :: rs) := by
  refine run_cons ?_ hrest
  rw [execWord_ok (encodedCommandDecodesToItself i hi), h, answered, hr, Option.map_some]

/-- A run in two parts: the second starts where the first ends (R46). -/
theorem run_append {ws vs : List CmdWord} {s t u : State} {rs qs : List Response} (h : run ws s = some (t, rs))
    (hrest : run vs t = some (u, qs)) : run (ws ++ vs) s = some (u, rs ++ qs) := by
  induction ws generalizing s rs with
  | nil =>
    cases h
    exact hrest
  | cons w ws ih =>
    obtain ⟨s', r, h1⟩ := answered_execWord w s
    obtain ⟨t', rs', h2⟩ := run_next ws s'
    cases h.symm.trans (run_cons h1 h2)
    exact run_cons h1 (ih h2)

theorem runCommands_append {is js : List Instr} {s t u : State} {rs qs : List Response}
    (h : runCommands is s = some (t, rs)) (hrest : runCommands js t = some (u, qs)) :
    runCommands (is ++ js) s = some (u, rs ++ qs) := by
  unfold runCommands
  rw [List.map_append]
  exact run_append h hrest

/-! ### The pseudo-command `KEY` (R65, R101, R202) -/

/-- The state in the middle of a key schedule: the accumulator and `ACCN` as given, the last command answered (R106, R107). -/
def State.absorbing (s : State) (a : Word) (n : Bool) : State := ((s.writeAcc a).writeAccn n).respond 0#32

/-- The state a key schedule leaves: the bank constructed from the accumulator and the accumulator gone (R108). -/
def State.seeded (s : State) (a : Word) : State :=
  (((s.writeBank (seedBank coreCfg a)).clearAcc).writeAccn false).respond 0#32

theorem exec_kinit_running {s : State} (h : s.fault = none) :
    exec .kinit s = .next (s.absorbing coreCfg.salt false) := by
  rw [exec, execKinit, State.unlessHalted_running h, kinit, State.absorbing]

section
variable {s : State} (h : s.fault = none) (a : Word) (n : Bool)
include h

theorem exec_kabs_absorbing (b : Byte) :
    exec (.kabs b) (s.absorbing a n) = .next (s.absorbing (absorb a b) true) := by
  rw [exec, execKabs, State.unlessHalted_running (s := s.absorbing a n) h, kabs_some rfl]
  rfl

theorem exec_kseed_absorbing (hn : coreCfg.rejectEmpty = false ∨ n = true) :
    exec .kseed (s.absorbing a n) = .next (s.seeded a) := by
  rw [exec, execKseed, State.unlessHalted_running (s := s.absorbing a n) h, kseed_some rfl hn]
  rfl

/-- Absorbing a passphrase, from any accumulator (R101, R107). -/
theorem runCommands_absorb (p : List Byte) :
    runCommands (p.map .kabs) (s.absorbing a n) =
      some (s.absorbing (p.foldl absorb a) (n || !p.isEmpty), List.replicate p.length ⟨0#4, 0#32⟩) := by
  induction p generalizing a n with
  | nil => simp [runCommands, run]
  | cons b p ih =>
    rw [List.isEmpty_cons, Bool.not_false, Bool.or_true]
    exact runCommands_cons rfl (exec_kabs_absorbing h a n b) rfl (ih (absorb a b) true)

end

/-- `KEY p` on a running core that accepts `p` (R65, R202 a). -/
theorem runCommands_key {s : State} (h : s.fault = none) {p : List Byte} (hp : p ≠ [] ∨ coreCfg.rejectEmpty = false) :
    runCommands (Pseudo.key p).expand s =
      some (s.seeded (accOf coreCfg p), List.replicate (p.length + 2) ⟨0#4, 0#32⟩) := by
  have haccepts : coreCfg.rejectEmpty = false ∨ (false || !p.isEmpty) = true := by simpa [or_comm] using hp
  have hseed := runCommands_cons (is := []) rfl (exec_kseed_absorbing h (accOf coreCfg p) _ haccepts) rfl rfl
  have habsorb := runCommands_append (runCommands_absorb h coreCfg.salt false p) hseed
  rw [← List.replicate_succ'] at habsorb
  exact runCommands_cons rfl (exec_kinit_running h) rfl habsorb

theorem State.seeded_S (s : State) (a : Word) (i : RegIdx) : (s.seeded a).S[i] = some (seed coreCfg a i) := by
  simp [State.seeded, seedBank]

/-- Settles O46: with an accepted passphrase the run is `runCommands_key`, and a run with a refused one is answered too. -/
theorem keyLoadsTheSeedsOfThePassphrase : Obligations.KeyLoadsTheSeedsOfThePassphrase := by
  intro s p hs
  by_cases hp : p ≠ [] ∨ coreCfg.rejectEmpty = false
  · exact ⟨_, _, runCommands_key hs hp, fun _ => ⟨rfl, State.seeded_S s _, rfl, rfl, hs, rfl⟩⟩
  · obtain ⟨t, rs, hrun⟩ := run_next ((Pseudo.key p).expand.map encode) s
    exact ⟨t, rs, hrun, fun h => absurd h hp⟩

end Sys2Proof.Machine
end

section
/-! SUPPORT. The statements of 40_register.md (rules R81, R83, R84, R86, R87): the laws of the Register's step and its inverse, and the
commands `LDS` and `RDS`. -/

namespace Sys2Proof.Machine

/-! ### The step in its two halves: the shift and the feedback (R80, R81) -/

/-- The feedback injection of R80: the mask enters the shifted state when the bit shifted out was 1. -/
def inject (mask : Word) (out : Bool) (t : Word) : Word := if out then t ^^^ mask else t

theorem lfsrStep_eq (mask s : Word) : lfsrStep mask s = (inject mask (s.getLsbD 0) (s >>> 1), s.getLsbD 0) := rfl

@[simp] theorem inject_false (mask t : Word) : inject mask false t = t := rfl

@[simp] theorem inject_true (mask t : Word) : inject mask true t = t ^^^ mask := rfl

/-- The feedback without a branch: the mask is masked by `rep32(out)` (R81). -/
theorem inject_eq_xor_and (mask : Word) (out : Bool) (t : Word) :
    inject mask out t = t ^^^ (mask &&& (if out = true then BitVec.allOnes 32 else 0#32)) := by
  cases out with
  | true => rw [inject_true, if_pos rfl, BitVec.and_allOnes]
  | false => simp

@[simp] theorem inject_zeroMask (out : Bool) (t : Word) : inject 0#32 out t = t := by
  cases out <;> simp

/-- Injecting the mask a second time takes it out again. -/
theorem inject_inject (mask : Word) (b : Bool) (t : Word) : inject mask b (inject mask b t) = t := by
  cases b <;> simp

theorem inject_getLsbD (mask : Word) (b : Bool) (t : Word) (k : Nat) :
    (inject mask b t).getLsbD k = (t.getLsbD k ^^ (b && mask.getLsbD k)) := by
  cases b <;> simp

/-- The feedback is linear in the bit shifted out and the shifted state together. -/
theorem inject_xor (mask : Word) (a b : Bool) (t u : Word) :
    inject mask (a ^^ b) (t ^^^ u) = inject mask a t ^^^ inject mask b u := by
  refine BitVec.eq_of_getLsbD_eq fun k _ => ?_
  simp only [inject_getLsbD, BitVec.getLsbD_xor, Bool.and_xor_distrib_right, Bool.xor_assoc, Bool.xor_left_comm]

theorem lfsrStep_getLsbD (mask s : Word) (k : Nat) :
    (lfsrStep mask s).1.getLsbD k = (s.getLsbD (k + 1) ^^ (s.getLsbD 0 && mask.getLsbD k)) := by
  rw [lfsrStep_eq, inject_getLsbD, BitVec.getLsbD_ushiftRight, Nat.add_comm]

/-- Nothing but the feedback enters at the top (R81). -/
theorem lfsrStep_getLsbD_top (mask s : Word) : (lfsrStep mask s).1.getLsbD 31 = (s.getLsbD 0 && mask.getLsbD 31) := by
  rw [lfsrStep_getLsbD, BitVec.getLsbD_of_ge s 32 (Nat.le_refl 32), Bool.false_xor]

/-- Settles O37: the feedback adds `s[0] AND mask[k]` to bit `k` of the shift, whose top bit is 0; and both the shift and the feedback
are linear. -/
theorem lfsrStepBitByBit : Obligations.LfsrStepBitByBit := by
  refine ⟨fun mask s => ⟨rfl, lfsrStep_getLsbD_top mask s, fun k _ => lfsrStep_getLsbD mask s k,
    inject_eq_xor_and mask _ _⟩, fun mask a b => ⟨?_, ?_⟩⟩
  · simp only [lfsrStep_eq, BitVec.getLsbD_xor, BitVec.ushiftRight_xor_distrib, inject_xor]
  · exact BitVec.getLsbD_xor

/-! ### State 0 (R83) -/

theorem lfsrStep_zero (mask : Word) : lfsrStep mask 0#32 = (0#32, false) := by
  simp [lfsrStep_eq]

/-- Settles O38: 0 is a fixed point of the step, and its bit 0 is 0. -/
theorem zeroStateIsStuck : Obligations.ZeroStateIsStuck := by
  refine ⟨lfsrStep_zero, fun mask n => ?_⟩
  have hstuck : (fun s => (lfsrStep mask s).1)^[n] 0#32 = 0#32 :=
    Function.iterate_fixed (congrArg Prod.fst (lfsrStep_zero mask)) n
  exact ⟨hstuck, by rw [hstuck, lfsrStep_zero]⟩

/-! ### Undoing the shift and the step (R84) -/

/-- `{t[30:0], b}`: the state of which `t` is the shift and `b` the bit shifted out (R84). -/
def shiftIn (t : Word) (b : Bool) : Word := t.extractLsb' 0 31 ++ BitVec.ofBool b

theorem shiftIn_getLsbD_zero (t : Word) (b : Bool) : (shiftIn t b).getLsbD 0 = b := by
  rw [shiftIn, BitVec.getLsbD_append (n := 31) (m := 1)]
  simp

theorem shiftIn_getLsbD_succ (t : Word) (b : Bool) {k : Nat} (hk : k < 31) :
    (shiftIn t b).getLsbD (k + 1) = t.getLsbD k := by
  rw [shiftIn, BitVec.getLsbD_append (n := 31) (m := 1)]
  simp [hk]

theorem ushiftRight_one_shiftIn (t : Word) (b : Bool) (h : t.getLsbD 31 = false) : shiftIn t b >>> 1 = t := by
  refine BitVec.eq_of_getLsbD_eq fun k hk => ?_
  rw [BitVec.getLsbD_ushiftRight, Nat.add_comm]
  rcases Nat.lt_or_eq_of_le (Nat.le_of_lt_succ hk) with hlt | rfl
  · exact shiftIn_getLsbD_succ t b hlt
  · rw [h]
    exact BitVec.getLsbD_of_ge _ _ (Nat.le_refl 32)

/-- A state is the bits above bit 0 and bit 0. -/
theorem shiftIn_ushiftRight_one (s : Word) : shiftIn (s >>> 1) (s.getLsbD 0) = s := by
  refine BitVec.eq_of_getLsbD_eq fun k hk => ?_
  cases k with
  | zero => exact shiftIn_getLsbD_zero _ _
  | succ k => rw [shiftIn_getLsbD_succ _ _ (Nat.lt_of_succ_lt_succ hk), BitVec.getLsbD_ushiftRight, Nat.add_comm]

theorem eq_shiftIn_iff (s t : Word) (b : Bool) :
    s = shiftIn t b ∧ t.getLsbD 31 = false ↔ s.getLsbD 0 = b ∧ s >>> 1 = t := by
  constructor
  · rintro ⟨rfl, htop⟩
    exact ⟨shiftIn_getLsbD_zero t b, ushiftRight_one_shiftIn t b htop⟩
  · rintro ⟨rfl, rfl⟩
    exact ⟨(shiftIn_ushiftRight_one s).symm, by simp⟩

theorem shiftIn_eq_or (t : Word) (b : Bool) : shiftIn t b = t <<< 1 ||| (if b then 1#32 else 0#32) := by
  refine BitVec.eq_of_getLsbD_eq fun k hk => ?_
  cases k with
  | zero =>
    rw [shiftIn_getLsbD_zero]
    cases b <;> simp
  | succ k =>
    have hk' : k < 32 := Nat.lt_of_succ_lt hk
    rw [shiftIn_getLsbD_succ t b (Nat.lt_of_succ_lt_succ hk)]
    cases b <;> simp [hk, BitVec.getLsbD_eq_getElem hk']

/-- `lfsr_unstep` undoes the feedback and then the shift (R84 b). -/
theorem lfsrUnstep_eq (mask s' : Word) :
    lfsrUnstep mask s' = shiftIn (inject mask (s'.getLsbD 31) s') (s'.getLsbD 31) := by
  rw [shiftIn_eq_or, lfsrUnstep]
  cases s'.getLsbD 31 <;> simp

section
variable {mask : Word} (hmask : mask.getLsbD 31 = true)
include hmask

/-- Bit 31 of the new state is the bit shifted out, so the step can be undone (R84 b). -/
theorem lfsrUnstep_lfsrStep (s : Word) : lfsrUnstep mask (lfsrStep mask s).1 = s := by
  have hout : (lfsrStep mask s).1.getLsbD 31 = s.getLsbD 0 := by
    rw [lfsrStep_getLsbD_top, hmask, Bool.and_true]
  rw [lfsrUnstep_eq, hout, lfsrStep_eq, inject_inject, shiftIn_ushiftRight_one]

theorem lfsrStep_lfsrUnstep (s' : Word) : (lfsrStep mask (lfsrUnstep mask s')).1 = s' := by
  have htop : (inject mask (s'.getLsbD 31) s').getLsbD 31 = false := by
    rw [inject_getLsbD, hmask, Bool.and_true, Bool.xor_self]
  rw [lfsrUnstep_eq, lfsrStep_eq, shiftIn_getLsbD_zero, ushiftRight_one_shiftIn _ _ htop, inject_inject]

end

/-! ### When a step reaches 0 (R84) -/

theorem lfsrStep_eq_zero_iff {mask s : Word} (hs : s ≠ 0#32) :
    (lfsrStep mask s).1 = 0#32 ↔ s.getLsbD 0 = true ∧ s >>> 1 = mask := by
  rw [lfsrStep_eq]
  cases hout : s.getLsbD 0 with
  | true => simp [BitVec.xor_eq_zero_iff]
  | false =>
    have hshift : s >>> 1 ≠ 0#32 := by
      intro hzero
      apply hs
      rw [← shiftIn_ushiftRight_one s, hzero, hout]
      decide
    simpa using hshift

theorem shiftIn_true_ne_zero (t : Word) : shiftIn t true ≠ 0#32 := by
  intro hzero
  have hbit : (0#32).getLsbD 0 = true := hzero ▸ shiftIn_getLsbD_zero t true
  simp at hbit

theorem lfsrStep_shiftIn {mask : Word} (hmask : mask.getLsbD 31 = false) : (lfsrStep mask (shiftIn mask true)).1 = 0#32 :=
  (lfsrStep_eq_zero_iff (shiftIn_true_ne_zero mask)).2 ((eq_shiftIn_iff _ _ _).1 ⟨rfl, hmask⟩)

/-- Under the mask 0 a Register is a shift register. -/
theorem iterate_lfsrStep_zeroMask (s : Word) (n : Nat) : (fun x => (lfsrStep 0#32 x).1)^[n] s = s >>> n := by
  induction n with
  | zero => simp
  | succ n ih =>
    rw [Function.iterate_succ_apply', ih, BitVec.shiftRight_add, lfsrStep_eq, inject_zeroMask]

/-- Settles O39: a step reaches 0 only when the feedback cancels the shift, and shift and feedback are undone one after the other. -/
theorem whenAStepReachesZero : Obligations.WhenAStepReachesZero := by
  refine ⟨fun mask s hs => ⟨lfsrStep_eq_zero_iff hs, ?_⟩, fun s => ?_, fun mask s => lfsrStep_ne_zero,
    fun mask hmask => ?_, fun mask hmask => ?_, by decide⟩
  · exact (lfsrStep_eq_zero_iff hs).trans (eq_shiftIn_iff s mask true).symm
  · rw [iterate_lfsrStep_zeroMask, BitVec.ushiftRight_eq_zero (Nat.le_refl 32)]
  · exact ⟨lfsrUnstep_lfsrStep hmask, lfsrStep_lfsrUnstep hmask⟩
  · exact ⟨shiftIn_true_ne_zero mask, lfsrStep_shiftIn hmask, congrArg Prod.fst (lfsrStep_zero mask)⟩

/-! ### `LDS` and `RDS` (R86, R87) -/

/-- Writing a Register sets its valid bit and no other (R12, R86). -/
theorem State.writeReg_V (s : State) (i : RegIdx) (v : Word) : (s.writeReg i v).V = s.V ||| (1#11 <<< i.val) := by
  refine BitVec.eq_of_getLsbD_eq fun k hk => ?_
  have hnew := (s.writeReg i v).V_getLsbD ⟨k, hk⟩
  have hold := s.V_getLsbD ⟨k, hk⟩
  rw [hnew, BitVec.getLsbD_or, hold, ← BitVec.twoPow_eq, BitVec.getLsbD_twoPow]
  by_cases hki : (⟨k, hk⟩ : RegIdx) = i
  · subst hki
    rw [s.writeReg_same]
    simp [hk]
  · have hval : i.val ≠ k := fun he => hki (Fin.ext he.symm)
    rw [s.writeReg_other v hki]
    simp [hval]

section
variable {s : State} (hs : s.fault = none) (i : RegIdx)
include hs

theorem exec_lds_zero : exec (.lds (BitVec.ofNat 4 i.val) 0#32) s = .next (s.raise .zeroseed) := by
  rw [exec, execLds, State.unlessHalted_running hs, lds_zero (regIdx_ofNat i)]

theorem exec_lds_nonzero {v : Word} (hv : v ≠ 0#32) :
    exec (.lds (BitVec.ofNat 4 i.val) v) s = .next ((s.writeReg i v).respond 0#32) := by
  rw [exec, execLds, State.unlessHalted_running hs, lds_nonzero (regIdx_ofNat i) hv]

theorem exec_rds_none (h : s.S[i] = none) : exec (.rds (BitVec.ofNat 4 i.val)) s = .next (s.raise .unkeyed) := by
  rw [exec, execRds, State.unlessHalted_running hs, rds_none (regIdx_ofNat i) h]

theorem exec_rds_some {v : Word} (h : s.S[i] = some v) : exec (.rds (BitVec.ofNat 4 i.val)) s = .next (s.respond v) := by
  rw [exec, execRds, State.unlessHalted_running hs, rds_some (regIdx_ofNat i) h]

end

/-- Settles O28: a nonzero seed is one `writeReg`, whose frame is that of the Register written. -/
theorem ldsConstructsOneRegister : Obligations.LdsConstructsOneRegister := by
  refine ⟨fun i v => encodedCommandDecodesToItself (.lds _ v) (legalIdx_ofNat i), fun s i hs => exec_lds_zero hs i,
    fun s i v hs hv => ⟨_, exec_lds_nonzero hs i hv, s.writeReg_same i v, fun j hj => s.writeReg_other v hj,
      s.writeReg_V i v, rfl, rfl, hs, rfl, rfl⟩, by decide, by decide⟩

/-- Settles O29: `RDS` answers what the Register holds, or raises `UNKEYED`. -/
theorem rdsReadsOneRegister : Obligations.RdsReadsOneRegister := by
  refine ⟨fun i => encodedCommandDecodesToItself (.rds _) (legalIdx_ofNat i), fun s i hs h => exec_rds_none hs i h,
    fun s i v hs h => ⟨exec_rds_some hs i h, fun hnz => hnz i v h⟩, by decide⟩

end Sys2Proof.Machine
end

section
/-! SUPPORT. The statements of 41_key_schedule.md (rules R100, R104 to R109): the laws of `absorb` and `seed`, and the commands
`KINIT`, `KABS` and `KSEED`. -/

namespace Sys2Proof.Machine

/-! ### `absorb` (R100) -/

theorem absorb_eq (a : Word) (b : Byte) : absorb a b = a <<< 5 ^^^ a ^^^ b.setWidth 32 := rfl

theorem absorb_getLsbD (a : Word) (b : Byte) {k : Nat} (hk : k < 32) :
    (absorb a b).getLsbD k = (a.getLsbD k ^^ (decide (5 ≤ k) && a.getLsbD (k - 5)) ^^ b.getLsbD k) := by
  have hshift : (a <<< 5).getLsbD k = (decide (5 ≤ k) && a.getLsbD (k - 5)) := by
    rw [BitVec.getLsbD_shiftLeft, decide_eq_true hk, Bool.true_and, ← decide_not, decide_eq_decide.2 Nat.not_lt]
  have hbyte : (b.setWidth 32).getLsbD k = b.getLsbD k := by
    rw [BitVec.getLsbD_setWidth, decide_eq_true hk, Bool.true_and]
  rw [absorb_eq, BitVec.getLsbD_xor, BitVec.getLsbD_xor, hshift, hbyte, Bool.xor_comm (a.getLsbD k)]

/-- A shifted copy can equal its original only where no bit is left to shift. -/
theorem eq_zero_of_shiftLeft_five_eq_self {x : Word} (h : x <<< 5 = x) : x = 0#32 :=
  calc x = x <<< 5 <<< 5 <<< 5 <<< 5 <<< 5 <<< 5 <<< 5 := by simp only [h]
    _ = x <<< 35 := by simp only [← BitVec.shiftLeft_add]
    _ = 0#32 := BitVec.shiftLeft_eq_zero (by decide)

theorem absorb_xor (a a' : Word) (b b' : Byte) : absorb (a ^^^ a') (b ^^^ b') = absorb a b ^^^ absorb a' b' := by
  simp only [absorb_eq, BitVec.shiftLeft_xor_distrib, BitVec.setWidth_xor]
  ac_rfl

/-- `absorb` is linear, and a value it sends to 0 is its own shift. -/
theorem absorb_injective (b : Byte) : Function.Injective fun a => absorb a b := by
  intro a a' h
  have hkernel : absorb (a ^^^ a') 0#8 = 0#32 := by
    rw [← BitVec.xor_self (x := b), absorb_xor]
    exact BitVec.xor_eq_zero_iff.2 h
  rw [absorb_eq, BitVec.setWidth_zero, BitVec.xor_zero, BitVec.xor_eq_zero_iff] at hkernel
  exact BitVec.xor_eq_zero_iff.1 (eq_zero_of_shiftLeft_five_eq_self hkernel)

theorem absorb_byte_injective (a : Word) : Function.Injective (absorb a) := by
  intro b b' h
  have hbyte : b.setWidth 32 = b'.setWidth 32 := (BitVec.xor_right_inj _).1 h
  simpa using congrArg (BitVec.setWidth 8) hbyte

/-- Settles O40: an injective map of a finite type is a bijection. -/
theorem absorbLaws : Obligations.AbsorbLaws := by
  refine ⟨absorb_eq, fun a b k => absorb_getLsbD a b, fun a b b' k hk => ?_, by decide,
    fun b => Finite.injective_iff_bijective.1 (absorb_injective b)⟩
  simp only [absorb_eq, BitVec.getLsbD_xor, BitVec.getLsbD_setWidth, BitVec.getLsbD_of_ge _ _ hk]

/-! ### Seeds (R102, R104, R105) -/

/-- The replacement of a zero seed by 1 (R102). -/
def nonzeroed (v : Word) : Word := if v = 0#32 then 1#32 else v

@[simp] theorem nonzeroed_zero : nonzeroed 0#32 = 1#32 := rfl

@[simp] theorem nonzeroed_of_ne_zero {v : Word} (h : v ≠ 0#32) : nonzeroed v = v := if_neg h

theorem seed_eq (cfg : Cfg) (a : Word) (i : RegIdx) : seed cfg a i = nonzeroed (a ^^^ cfg.K i) := rfl

theorem seedBank_get (cfg : Cfg) (a : Word) (i : RegIdx) : (seedBank cfg a)[i] = seed cfg a i := by
  simp [seedBank]

/-- Settles O41: the replacement leaves no zero. -/
theorem seedsAreNeverZero : Obligations.SeedsAreNeverZero :=
  ⟨fun cfg a i => seedBank_get cfg a i ▸ seedBank_ne_zero cfg a i, fun cfg p => seedBank_ne_zero cfg (accOf cfg p)⟩

/-- The replacement merges 0 with 1 and no other two values. -/
theorem nonzeroed_eq_iff (v w : Word) :
    nonzeroed v = nonzeroed w ↔ v = w ∨ (v = 0#32 ∧ w = 1#32) ∨ (v = 1#32 ∧ w = 0#32) := by
  rcases eq_or_ne v 0#32 with rfl | hv <;> rcases eq_or_ne w 0#32 with rfl | hw
  · simp
  · simp [hw, hw.symm, eq_comm (a := 1#32)]
  · simp [hv]
  · simp [hv, hw]

theorem seed_eq_seed_iff (cfg : Cfg) (a : Word) (i j : RegIdx) :
    seed cfg a i = seed cfg a j ↔
      cfg.K i = cfg.K j ∨ (cfg.K i ^^^ cfg.K j = 1#32 ∧ (a = cfg.K i ∨ a = cfg.K j)) := by
  rw [seed_eq, seed_eq, nonzeroed_eq_iff, BitVec.xor_right_inj, BitVec.xor_eq_zero_iff, BitVec.xor_eq_zero_iff]
  refine or_congr_right ?_
  constructor
  · rintro (⟨rfl, h⟩ | ⟨h, rfl⟩)
    · exact ⟨h, .inl rfl⟩
    · exact ⟨BitVec.xor_comm _ _ ▸ h, .inr rfl⟩
  · rintro ⟨h, rfl | rfl⟩
    · exact .inl ⟨rfl, h⟩
    · exact .inr ⟨BitVec.xor_comm _ _ ▸ h, rfl⟩

/-- Item 6 of `wf(Cfg)` excludes both ways to collide. -/
theorem seed_ne_seed_of_wf {cfg : Cfg} (hcfg : cfg.wf) (a : Word) {i j : RegIdx} (hij : i ≠ j) :
    seed cfg a i ≠ seed cfg a j := by
  obtain ⟨-, -, -, -, -, hapart⟩ := hcfg
  obtain ⟨hne, hone⟩ := hapart i j hij
  rw [ne_eq, seed_eq_seed_iff]
  rintro (hK | ⟨hK, -⟩)
  · exact hne (BitVec.xor_eq_zero_iff.2 hK)
  · exact hone hK

theorem seeds_zero_one_collide {cfg : Cfg} (hc : cfg.c = 1#32) : seed cfg 0#32 0 = 1#32 ∧ seed cfg 0#32 1 = 1#32 := by
  simp only [seed_eq, Cfg.K, hc]
  decide

/-- Settles O42: two seeds agree when the XORs do, or when one is 0 and the other 1. -/
theorem whenTwoSeedsCollide : Obligations.WhenTwoSeedsCollide :=
  ⟨fun cfg a i j _ => seed_eq_seed_iff cfg a i j, fun _ a _ _ hcfg hij => seed_ne_seed_of_wf hcfg a hij,
    fun _ => seeds_zero_one_collide⟩

/-! ### Passphrases that differ in one byte (R109) -/

theorem foldl_absorb_injective (p : List Byte) : Function.Injective fun a => p.foldl absorb a := by
  induction p with
  | nil => exact Function.injective_id
  | cons b p ih => exact ih.comp (absorb_injective b)

theorem accOf_ne_of_byte_ne (cfg : Cfg) (before after : List Byte) {x y : Byte} (h : x ≠ y) :
    accOf cfg (before ++ x :: after) ≠ accOf cfg (before ++ y :: after) := by
  simp only [accOf, List.foldl_append, List.foldl_cons]
  exact (foldl_absorb_injective after).ne ((absorb_byte_injective _).ne h)

/-- Settles O45: the differing byte is absorbed injectively, and so is all that follows it. -/
theorem oneByteChangesTheAccumulator : Obligations.OneByteChangesTheAccumulator := by
  intro cfg before after x y hxy a b
  have hab : a ≠ b := accOf_ne_of_byte_ne cfg before after hxy
  refine ⟨hab, fun i => ?_⟩
  have hxor : a ^^^ cfg.K i ≠ b ^^^ cfg.K i := (BitVec.xor_left_inj _).not.2 hab
  exact ⟨hxor, fun hseed => ((nonzeroed_eq_iff _ _).1 hseed).resolve_left hxor⟩

/-! ### `KINIT` (R106) -/

/-- Settles O25: the state after `KINIT`, field by field. -/
theorem kinitStartsTheAccumulator : Obligations.KinitStartsTheAccumulator :=
  ⟨by decide, fun _ hs => exec_kinit_running hs, by decide, by decide⟩

/-! ### `KABS` (R107) -/

/-- The shift loses bits 31..27 and no other. -/
theorem shiftLeft_five_eq_zero_iff (a : Word) : a <<< 5 = 0#32 ↔ a.extractLsb' 0 27 = 0#27 := by
  simp only [← BitVec.toNat_inj, BitVec.toNat_shiftLeft, BitVec.extractLsb'_toNat, BitVec.toNat_ofNat, Nat.shiftLeft_eq,
    Nat.shiftRight_zero]
  omega

theorem absorb_zero_eq_self_iff (a : Word) : absorb a 0#8 = a ↔ a.extractLsb' 0 27 = 0#27 := by
  rw [← shiftLeft_five_eq_zero_iff, absorb_eq, BitVec.setWidth_zero, BitVec.xor_zero]
  exact xor_right_eq_self_iff

theorem exec_kabs_running {s : State} (hs : s.fault = none) (b : Byte) : exec (.kabs b) s = .next (kabs b s) := by
  rw [exec, execKabs, State.unlessHalted_running hs]

/-- Settles O26: `KABS` with and without an accumulator, and a zero byte cancels only a shift that is 0. -/
theorem kabsAbsorbsOneByte : Obligations.KabsAbsorbsOneByte := by
  refine ⟨fun b => encodedCommandDecodesToItself (.kabs b) rfl, fun s b hs h => ?_, fun s b a hs h => ?_,
    absorb_zero_eq_self_iff, by decide, by decide, by decide⟩
  · rw [exec_kabs_running hs, kabs_none h]
    rfl
  · rw [exec_kabs_running hs, kabs_some h]
    rfl

/-! ### `KSEED` (R108) -/

theorem exec_kseed_running {s : State} (hs : s.fault = none) : exec .kseed s = .next (kseed coreCfg s) := by
  rw [exec, execKseed, State.unlessHalted_running hs]

/-- The eleven seeds, as the Registers hold them. -/
theorem State.writeBank_seedBank_S (s : State) (cfg : Cfg) (a : Word) :
    (s.writeBank (seedBank cfg a)).S = Vector.ofFn fun i => some (seed cfg a i) := by
  simp only [State.writeBank_S, seedBank_get]

/-- A `KSEED` that is not refused, field by field. -/
theorem kseed_accepted {cfg : Cfg} {s : State} {a : Word} (h : s.acc = some a)
    (hn : cfg.rejectEmpty = false ∨ s.accn = true) :
    kseed cfg s = { s with
      S := Vector.ofFn fun i => some (seed cfg a i), acc := none, accn := false, rsp := some ⟨0#4, 0#32⟩ } := by
  rw [kseed_some h hn, ← s.writeBank_seedBank_S]
  rfl

/-- `KSEED` with an accumulator: refused or accepted as `REJECT_EMPTY` and `ACCN` say. -/
theorem kseed_of_acc {cfg : Cfg} {s : State} {a : Word} (h : s.acc = some a) :
    kseed cfg s = if cfg.rejectEmpty = true ∧ s.accn = false then s.raise .emptykey
      else { s with
        S := Vector.ofFn fun i => some (seed cfg a i), acc := none, accn := false, rsp := some ⟨0#4, 0#32⟩ } := by
  split
  · next hrefused =>
    obtain ⟨hreject, hempty⟩ := hrefused
    exact kseed_empty h hreject hempty
  · next haccepted => exact kseed_accepted h (by simpa [or_iff_not_imp_left] using haccepted)

theorem kseed_accepted_V {cfg : Cfg} {s : State} {a : Word} (h : s.acc = some a)
    (hn : cfg.rejectEmpty = false ∨ s.accn = true) : (kseed cfg s).V = 0x7FF#11 := by
  rw [State.V_eq_full_iff, kseed_accepted h hn]
  simp

/-- Settles O27: the faults in their order, and an accepted `KSEED` in full. -/
theorem kseedConstructsTheBank : Obligations.KseedConstructsTheBank := by
  refine ⟨fun s hs h => ?_, fun s a hs h hn => ?_, fun s a hs h => ?_,
    fun cfg s a h => ⟨kseed_empty h, fun hn => ⟨fun i => ?_, kseed_accepted_V h hn⟩⟩,
    by decide, by decide, by decide, by decide, by decide⟩
  · rw [exec_kseed_running hs, kseed_none h]
    rfl
  · rw [exec_kseed_running hs, kseed_accepted h (.inr hn)]
    rfl
  · rw [exec_kseed_running hs, kseed_of_acc h]
    rfl
  · rw [kseed_accepted h hn, Fin.getElem_fin, Vector.getElem_ofFn]
    rfl

end Sys2Proof.Machine
end

section
/-! SUPPORT. The statements of 42_bank.md (rules R122, R123): what one clock answers, `CLK`, the keystream byte bit by bit, and runs of
the commands that make clocks. -/

namespace Sys2Proof.Machine

/-! ### The answer of one clock (R57, R122) -/

theorem packClock_getLsbD_low (z : Bool) (bits : Bits11) {k : Nat} (hk : k < NREG) :
    (packClock z bits).getLsbD k = bits.getLsbD k := by
  rw [packClock, BitVec.getLsbD_setWidth, BitVec.getLsbD_append]
  simp [hk, hk.trans (by decide : NREG < 32)]

theorem packClock_getLsbD_combined (z : Bool) (bits : Bits11) : (packClock z bits).getLsbD 11 = z := by
  rw [packClock, BitVec.getLsbD_setWidth, BitVec.getLsbD_append]
  simp

theorem packClock_getLsbD_high (z : Bool) (bits : Bits11) {k : Nat} (hk : 12 ≤ k) :
    (packClock z bits).getLsbD k = false := by
  rw [packClock, BitVec.getLsbD_setWidth, BitVec.getLsbD_of_ge (BitVec.ofBool z ++ bits) k hk, Bool.and_false]

theorem packClock_setWidth (z : Bool) (bits : Bits11) : (packClock z bits).setWidth 11 = bits := by
  refine BitVec.eq_of_getLsbD_eq fun k hk => ?_
  rw [BitVec.getLsbD_setWidth, packClock_getLsbD_low z bits hk, decide_eq_true hk, Bool.true_and]

/-- What `CLK` returns when it makes clock `n`, counted from 0 at `B` (R122). -/
def clockDout (cfg : Cfg) (B : Bank) (n : Nat) : Word :=
  packClock (keyBit cfg B n) (stepAll cfg (bankAfter cfg B n)).2

theorem clockDout_getLsbD_fresh (cfg : Cfg) (B : Bank) (i : RegIdx) :
    (clockDout cfg B 0).getLsbD i.val = B[i].getLsbD 0 :=
  (packClock_getLsbD_low _ _ i.isLt).trans (stepAll_bits cfg B i)

theorem clockDout_getLsbD_combined (cfg : Cfg) (B : Bank) (n : Nat) : (clockDout cfg B n).getLsbD 11 = keyBit cfg B n :=
  packClock_getLsbD_combined _ _

/-- The combined bit is the Combiner's value on the fresh bits returned beside it (R122). -/
theorem clockDout_combined (cfg : Cfg) (B : Bank) (n : Nat) :
    (clockDout cfg B n).getLsbD 11 = combine ((clockDout cfg B n).setWidth 11) := by
  rw [clockDout_getLsbD_combined, clockDout, packClock_setWidth, keyBit]

/-! ### `CLK` (R122) -/

theorem State.writeBank_V_full (s : State) (B : Bank) : (s.writeBank B).V = 0x7FF#11 :=
  (s.writeBank B).V_eq_full_iff.2 fun i => by rw [s.writeBank_get B i]; rfl

section
variable {s : State} (hs : s.fault = none)
include hs

theorem exec_clk_unkeyed (h : ∃ i : RegIdx, s.S[i] = none) : exec .clk s = .next (s.raise .unkeyed) := by
  rw [exec, execClk, State.unlessHalted_running hs, clk_unkeyed h]

/-- `CLK` on a core whose bank is `n` clocks after `B`. -/
theorem exec_clk_keyed {B : Bank} {n : Nat} (hB : ∀ i : RegIdx, s.S[i] = some (bankAfter coreCfg B n)[i]) :
    exec .clk s = .next ((s.writeBank (bankAfter coreCfg B (n + 1))).respond (clockDout coreCfg B n)) := by
  rw [exec, execClk, State.unlessHalted_running hs, clk_keyed hB]
  rfl

end

/-- With every Register in state 1 each shifts out its 1 and takes its mask (R122). -/
theorem stepAll_ones (cfg : Cfg) : stepAll cfg (Vector.replicate NREG 1#32) = (cfg.mask, 0x7FF#11) := by
  have hones : ∀ i : RegIdx, (Vector.replicate NREG 1#32 : Bank)[i] = 1#32 := fun i => by simp
  have hfull : ∀ i : RegIdx, (0x7FF#11).getLsbD i.val = true := by decide
  refine Prod.ext (Vector.ext fun k hk => ?_) (BitVec.eq_of_getLsbD_eq fun k hk => ?_)
  · refine (stepAll_bank cfg _ ⟨k, hk⟩).trans ?_
    rw [hones]
    simp [lfsrStep]
  · refine (stepAll_bits cfg _ ⟨k, hk⟩).trans ?_
    rw [hones, hfull ⟨k, hk⟩]
    decide

theorem clockDout_ones (cfg : Cfg) : clockDout cfg (Vector.replicate NREG 1#32) 0 = 0x00000FFF#32 := by
  rw [clockDout, keyBit, bankAfter, stepAll_ones]
  change packClock (combine 0x7FF#11) 0x7FF#11 = _
  decide

theorem bankAfter_ones (cfg : Cfg) : bankAfter cfg (Vector.replicate NREG 1#32) 1 = cfg.mask := by
  rw [bankAfter, bankAfter, stepAll_ones]

/-- Settles O30: a keyed `CLK` writes the bank one clock on and answers the packed bits of that clock. -/
theorem clkStepsTheBankOnce : Obligations.ClkStepsTheBankOnce := by
  refine ⟨by decide, fun s hs h => exec_clk_unkeyed hs h, fun s B hs hB => ?_, fun s hs hones => ?_,
    by decide, by decide⟩
  · refine ⟨_, clockDout coreCfg B 0, exec_clk_keyed (n := 0) hs hB, fun i => ?_, State.writeBank_V_full s _, rfl,
      clockDout_getLsbD_fresh coreCfg B, clockDout_combined coreCfg B 0,
      fun k hk => packClock_getLsbD_high _ _ hk, rfl, rfl, hs, rfl⟩
    exact (s.writeBank_get _ i).trans (congrArg some (stepAll_bank coreCfg B i))
  · have hB : ∀ i : RegIdx, s.S[i] = some (bankAfter coreCfg (Vector.replicate NREG 1#32) 0)[i] := fun i => by
      simpa [bankAfter] using hones i
    refine ⟨_, exec_clk_keyed hs hB, ?_, fun i => ?_⟩
    · rw [State.respond_rsp, clockDout_ones]
    · rw [bankAfter_ones]
      exact s.writeBank_get _ i

/-! ### Clocks in a row (R120, R140, R141) -/

theorem bankAfter_add (cfg : Cfg) (B : Bank) (m n : Nat) :
    bankAfter cfg B (m + n) = bankAfter cfg (bankAfter cfg B m) n := by
  induction n with
  | zero => rfl
  | succ n ih => rw [← Nat.add_assoc, bankAfter, bankAfter, ih]

theorem keyBit_add (cfg : Cfg) (B : Bank) (m n : Nat) :
    keyBit cfg B (m + n) = keyBit cfg (bankAfter cfg B m) n := by
  rw [keyBit, keyBit, bankAfter_add]

/-- The Assembler's loop, its last clock taken apart: each new bit enters at bit 0 (R140). -/
theorem assemble_byte_succ (cfg : Cfg) (n : Nat) (B : Bank) (byte : Byte) :
    (assemble cfg (n + 1) B byte).2 =
      (assemble cfg n B byte).2 <<< 1 ||| (BitVec.ofBool (keyBit cfg B n)).setWidth 8 := by
  induction n generalizing B byte with
  | zero => rfl
  | succ n ih =>
    rw [Nat.add_comm n 1, keyBit_add, Nat.add_comm 1 n]
    exact ih _ _

/-- The last bit gathered is bit 0, the one before it bit 1, and so on (R140). -/
theorem assemble_getLsbD (cfg : Cfg) (B : Bank) (byte : Byte) {n k : Nat} (hk : k < 8) (hkn : k < n) :
    (assemble cfg n B byte).2.getLsbD k = keyBit cfg B (n - 1 - k) := by
  induction n generalizing k with
  | zero => exact absurd hkn k.not_lt_zero
  | succ n ih =>
    rw [assemble_byte_succ]
    cases k with
    | zero => simp
    | succ k =>
      have hclock : n + 1 - 1 - (k + 1) = n - 1 - k := by omega
      rw [hclock, ← ih (Nat.lt_of_succ_lt hk) (Nat.lt_of_succ_lt_succ hkn)]
      simp [hk, Nat.lt_of_succ_lt hk]

/-- The first clock's bit is bit 7 of the byte, the eighth's is bit 0 (R140, R143). -/
theorem nextByte_getLsbD (cfg : Cfg) (B : Bank) {n : Nat} (hn : n < 8) :
    (nextByte cfg B).2.getLsbD (7 - n) = keyBit cfg B n := by
  have hclock : 8 - 1 - (7 - n) = n := by omega
  rw [nextByte, assemble_getLsbD cfg B 0#8 (by omega) (by omega), hclock]

/-- A byte in `DOUT[7:0]` (R59). -/
theorem zextByte_getLsbD (b : Byte) {k : Nat} (hk : k < 8) : (zextByte b).getLsbD k = b.getLsbD k := by
  rw [zextByte, BitVec.getLsbD_setWidth, decide_eq_true (hk.trans (by decide)), Bool.true_and]

/-! ### Runs of the commands that make clocks (R123) -/

/-- A bank written by a command that then answers can be read by the next command (R122). -/
theorem State.writeBank_respond_get (s : State) (B : Bank) (d : Word) (i : RegIdx) :
    ((s.writeBank B).respond d).S[i] = some B[i] :=
  s.writeBank_get B i

section
variable {s : State} (hs : s.fault = none) {B : Bank}
include hs

theorem exec_nextb_keyed (hB : ∀ i : RegIdx, s.S[i] = some B[i]) :
    exec .nextb s = .next ((s.writeBank (bankAfter coreCfg B 8)).respond (zextByte (nextByte coreCfg B).2)) := by
  rw [exec, execNextb, State.unlessHalted_running hs, nextb_keyed hB, nextByte_bank]

theorem runCommands_clk {n : Nat} (hB : ∀ i : RegIdx, s.S[i] = some (bankAfter coreCfg B n)[i]) :
    runCommands [.clk] s = some ((s.writeBank (bankAfter coreCfg B (n + 1))).respond (clockDout coreCfg B n),
      [⟨0#4, clockDout coreCfg B n⟩]) :=
  runCommands_cons (is := []) rfl (exec_clk_keyed hs hB) rfl rfl

/-- A row of `CLK`: the bank after as many clocks, and the answers of the clocks in their order. -/
theorem runCommands_replicate_clk (hB : ∀ i : RegIdx, s.S[i] = some B[i]) (n : Nat) :
    runCommands (List.replicate (n + 1) .clk) s =
      some ((s.writeBank (bankAfter coreCfg B (n + 1))).respond (clockDout coreCfg B n),
        (List.range (n + 1)).map fun k => ⟨0#4, clockDout coreCfg B k⟩) := by
  induction n with
  | zero => exact runCommands_clk (n := 0) hs hB
  | succ n ih =>
    rw [List.replicate_succ', List.range_succ, List.map_append]
    exact runCommands_append ih (runCommands_clk (s := (s.writeBank _).respond _) hs (s.writeBank_respond_get _ _))

/-- A command that makes clocks takes the bank as many clocks on (R122, R142, R150). -/
theorem exec_clocks_keyed {i : Instr} (hi : 0 < clocks i) (hB : ∀ j : RegIdx, s.S[j] = some B[j]) :
    ∃ d, exec i s = .next ((s.writeBank (bankAfter coreCfg B (clocks i))).respond d) := by
  obtain ⟨dout, hexec⟩ := exec_of_clocks_pos hi
  exact ⟨dout B, by rw [hexec, State.unlessHalted_running hs, State.withBank_keyed hB]⟩

end

theorem wf_of_clocks_pos {i : Instr} (hi : 0 < clocks i) : i.wf = true := by
  cases i with
  | lds | rds => exact absurd hi (Nat.lt_irrefl 0)
  | _ => rfl

/-- The bank after a run of commands that make clocks is told by their total: each goes on from the bank the last one left. -/
theorem runCommands_clocks {is : List Instr} (hpos : ∀ i ∈ is, 0 < clocks i) {s : State} {B : Bank}
    (hs : s.fault = none) (hB : ∀ i : RegIdx, s.S[i] = some B[i]) :
    ∃ t rs, runCommands is s = some (t, rs) ∧
      ∀ i : RegIdx, t.S[i] = some (bankAfter coreCfg B (is.map clocks).sum)[i] := by
  induction is generalizing s B with
  | nil => exact ⟨s, [], rfl, hB⟩
  | cons i is ih =>
    obtain ⟨hi, his⟩ := List.forall_mem_cons.1 hpos
    obtain ⟨d, hexec⟩ := exec_clocks_keyed hs hi hB
    obtain ⟨t, rs, hrun, hbank⟩ := ih his (s := (s.writeBank _).respond d) hs (s.writeBank_respond_get _ d)
    refine ⟨t, _, runCommands_cons (wf_of_clocks_pos hi) hexec rfl hrun, ?_⟩
    rwa [List.map_cons, List.sum_cons, bankAfter_add]

/-- Two answers from one state leave states that differ in the response only. -/
theorem State.respond_agree (s : State) (d e : Word) :
    (s.respond d).S = (s.respond e).S ∧ (s.respond d).acc = (s.respond e).acc ∧
      (s.respond d).accn = (s.respond e).accn ∧ (s.respond d).fault = (s.respond e).fault ∧
      (s.respond d).host = (s.respond e).host :=
  ⟨rfl, rfl, rfl, rfl, rfl⟩

/-- Settles O51: eight `CLK` and one `NEXTB` both leave the bank eight clocks on, and both answers are made of the combined bits of
those clocks. -/
theorem eightClocksAreOneByte : Obligations.EightClocksAreOneByte := by
  refine ⟨fun s B hs hB => ?_, fun s B is hs hB hpos => runCommands_clocks hpos hs hB⟩
  obtain ⟨hS, hacc, haccn, hfault, hhost⟩ := (s.writeBank (bankAfter coreCfg B 8)).respond_agree
    (clockDout coreCfg B 7) (zextByte (nextByte coreCfg B).2)
  refine ⟨_, _, _, _, runCommands_replicate_clk hs hB 7, exec_nextb_keyed hs hB, rfl, hS, hacc, haccn, hfault, hhost,
    by simp, fun n r hr => ?_⟩
  obtain ⟨k, hk, rfl⟩ := Option.map_eq_some_iff.1 (List.getElem?_map.symm.trans hr)
  obtain ⟨hn, rfl⟩ : n < 8 ∧ n = k := by simpa [List.getElem?_eq_some_iff] using hk
  rw [clockDout_getLsbD_combined, zextByte_getLsbD _ (by omega), nextByte_getLsbD coreCfg B hn]

end Sys2Proof.Machine
end

section
/-! SUPPORT. The statements of 43_combiner.md (rules R130 to R133): the selector, the Combiner, and `COMB`. -/

namespace Sys2Proof.Machine

/-! ### The selector (R130) -/

theorem select_true (a b : Bool) : select true a b = a := by simp [select]

theorem select_false (a b : Bool) : select false a b = b := by simp [select]

/-- Over GF(2), `NOT c` is `1 XOR c` (R130). -/
theorem select_polynomial (c a b : Bool) : select c a b = ((c && a) ^^ (c && b) ^^ b) := by
  cases c with
  | true => simp [select_true]
  | false => simp [select_false]

/-- Settles O48: the formula is the definition, and each row of the table is one of the two readings of the control. -/
theorem selectIsTheGeffeSelector : Obligations.SelectIsTheGeffeSelector :=
  ⟨fun c a b => ⟨rfl, select_true a b, select_false a b, select_polynomial c a b⟩,
    select_false _ _, select_false _ _, select_false _ _, select_false _ _,
    select_true _ _, select_true _ _, select_true _ _, select_true _ _⟩

/-! ### The Combiner (R131, R132) -/

theorem combine_polynomial (b : Bits11) : combine b =
    ((b.getLsbD 0 && b.getLsbD 1) ^^ (b.getLsbD 0 && b.getLsbD 2) ^^ b.getLsbD 2 ^^
     (b.getLsbD 3 && b.getLsbD 4) ^^ (b.getLsbD 3 && b.getLsbD 5) ^^ b.getLsbD 5 ^^
     (b.getLsbD 6 && b.getLsbD 7) ^^ (b.getLsbD 6 && b.getLsbD 8) ^^ b.getLsbD 8 ^^ b.getLsbD 9 ^^ b.getLsbD 10) := by
  simp only [combine, select_polynomial, Bool.xor_assoc]

theorem combine_zero : combine 0#11 = false := by decide

theorem combine_allOnes : combine 0x7FF#11 = true := by decide

theorem combine_flip_bit9 (b : Bits11) : combine (b ^^^ 0x200#11) = !combine b := by
  simp [combine]

theorem combine_flip_bit10 (b : Bits11) : combine (b ^^^ 0x400#11) = !combine b := by
  simp [combine]

/-- Adding 1024 is flipping bit 10, the top bit. -/
theorem ofNat_add_1024 (n : Nat) : BitVec.ofNat 11 (1024 + n) = BitVec.ofNat 11 n ^^^ 0x400#11 := by
  change BitVec.ofNat 11 (2 ^ 10 + n) = BitVec.ofNat 11 n ^^^ BitVec.twoPow 11 10
  refine BitVec.eq_of_getLsbD_eq fun k hk => ?_
  rw [BitVec.getLsbD_xor, BitVec.getLsbD_twoPow, BitVec.getLsbD_ofNat, BitVec.getLsbD_ofNat]
  rcases Nat.lt_succ_iff_lt_or_eq.1 hk with hlt | rfl
  · simp [hlt.ne', Nat.testBit_two_pow_add_gt hlt]
  · simpa using Nat.testBit_two_pow_add_eq n 10

/-- Flipping bit 10 pairs the inputs, and one of each pair gives 1 (R132 b, d). -/
theorem combine_balanced : ((List.range 2048).countP fun n => combine (BitVec.ofNat 11 n)) = 1024 := by
  have hflip : ∀ n, combine (BitVec.ofNat 11 (1024 + n)) = !combine (BitVec.ofNat 11 n) := fun n => by
    rw [ofNat_add_1024, combine_flip_bit10]
  have hpairs := List.length_eq_countP_add_countP (l := List.range 1024) fun n => combine (BitVec.ofNat 11 n)
  rw [List.length_range] at hpairs
  rw [show 2048 = 1024 + 1024 from rfl, List.range_add, List.countP_append, List.countP_map, Function.comp_def]
  simpa [hflip] using hpairs.symm

/-- No selector reads bits on both sides of bit 6, so the two parts of an input add up (R131). -/
theorem combine_ofNat_add (h : Nat) {l : Nat} (hl : l < 64) :
    combine (BitVec.ofNat 11 (64 * h + l)) = (combine (BitVec.ofNat 11 l) ^^ combine (BitVec.ofNat 11 (64 * h))) := by
  have hsum : ∀ k, (64 * h + l).testBit k = if k < 6 then l.testBit k else h.testBit (k - 6) :=
    Nat.testBit_two_pow_mul_add h (i := 6) hl
  have hhigher : ∀ k, (64 * h).testBit k = (decide (k ≥ 6) && h.testBit (k - 6)) := fun _ =>
    Nat.testBit_two_pow_mul (i := 6)
  have hzero : ∀ k, 6 ≤ k → l.testBit k = false := fun k hk =>
    Nat.testBit_lt_two_pow (hl.trans_le (Nat.pow_le_pow_right Nat.two_pos hk))
  simp only [combine, BitVec.getLsbD_ofNat, hsum, hhigher]
  simp [hzero, select_false]

/-- The words of the table are the first two and their complements. -/
theorem combineTable_word : ∀ w < 64, (combineTable[w]?).getD 0#32 =
    if combine (BitVec.ofNat 11 (64 * (w / 2))) = true then ~~~(combineTable[w % 2]?).getD 0#32
    else (combineTable[w % 2]?).getD 0#32 := by
  decide

theorem combineTable_first_words : ∀ w < 2, ∀ j < 32,
    combine (BitVec.ofNat 11 (32 * w + j)) = ((combineTable[w]?).getD 0#32).getLsbD j := by
  decide

theorem combine_eq_combineTable {w j : Nat} (hw : w < 64) (hj : j < 32) :
    combine (BitVec.ofNat 11 (32 * w + j)) = ((combineTable[w]?).getD 0#32).getLsbD j := by
  have hparts : 32 * w + j = 64 * (w / 2) + (32 * (w % 2) + j) := by omega
  rw [hparts, combine_ofNat_add _ (by omega), combineTable_first_words _ (Nat.mod_lt _ (by decide)) _ hj,
    combineTable_word w hw]
  cases combine (BitVec.ofNat 11 (64 * (w / 2))) <;> simp [hj]

/-- Settles O49: the flip of bit 10 gives the balance, and the table is its first two words and their complements. -/
theorem combineFacts : Obligations.CombineFacts :=
  ⟨combine_polynomial, combine_balanced, combine_zero, combine_allOnes,
    fun b => ⟨combine_flip_bit9 b, combine_flip_bit10 b⟩, fun _ _ hw hj => combine_eq_combineTable hw hj⟩

/-! ### `COMB` (R133) -/

theorem zextBit_eq (b : Bool) : zextBit b = if b = true then 1#32 else 0#32 := by
  cases b <;> rfl

theorem exec_comb_running {s : State} (hs : s.fault = none) (t : Bits11) :
    exec (.comb t) s = .next (s.respond (zextBit (combine t))) := by
  rw [exec, execComb, State.unlessHalted_running hs, comb]

/-- The operand of `COMB` is 11 bits, and none above them is cut off (R61, R133). -/
theorem decode_comb_word_error {v : Word} (hv : 2048 ≤ v.toNat) : ∃ e, decode (mkWord 0xA#4 0#4 v) = .error e := by
  rw [decode_error_iff]
  intro i hi hformat
  obtain rfl : Instr.comb _ = i := by simpa [namedCommand] using hi
  obtain ⟨-, himm⟩ := (formatError_T_iff _).1 hformat
  rw [immOf_mkWord] at himm
  exact absurd himm (Nat.not_lt.2 hv)

/-- Settles O33: `COMB` only answers, and its word keeps format `T` exactly when the operand has 11 bits. -/
theorem combEvaluatesTheCombiner : Obligations.CombEvaluatesTheCombiner := by
  refine ⟨fun t => encodedCommandDecodesToItself (.comb t) rfl, fun s t hs => ?_, fun v => decode_comb_word_error,
    combine_zero, combine_allOnes, by decide, by decide⟩
  rw [exec_comb_running hs, zextBit_eq]
  rfl

end Sys2Proof.Machine
end

section
/-! SUPPORT. The statements of 44_assembler.md (rules R140 to R143): the keystream bytes, their packing, and `NEXTB`. -/

namespace Sys2Proof.Machine

/-! ### The keystream bytes (R140, R141) -/

/-- Byte `k` is the next byte of the bank that the `k` bytes before it leave (R141). -/
theorem keyByte_eq_nextByte (cfg : Cfg) (B : Bank) (k : Nat) :
    keyByte cfg B k = (nextByte cfg (bankAfter cfg B (8 * k))).2 := by
  induction k generalizing B with
  | zero => rfl
  | succ k ih => rw [keyByte, ih, nextByte_bank, ← bankAfter_add, Nat.add_comm 8, Nat.mul_succ]

theorem keyByte_getLsbD (cfg : Cfg) (B : Bank) (k : Nat) {n : Nat} (hn : n < 8) :
    (keyByte cfg B k).getLsbD (7 - n) = keyBit cfg B (8 * k + n) := by
  rw [keyByte_eq_nextByte, nextByte_getLsbD cfg _ hn, keyBit_add]

/-- Settles O52: byte `k` starts at the bank `8k` clocks on, and each clock's bit has its place in it. -/
theorem keystreamByteIsEightClocks : Obligations.KeystreamByteIsEightClocks :=
  fun cfg B => ⟨nextByte_bank cfg B, fun k _ hn => keyByte_getLsbD cfg B k hn⟩

/-! ### The packing test (R143) -/

/-- The first two keystream bytes of the reference configuration with every Register seeded to 1 (R142, R143). -/
theorem keyByte_ref_ones :
    keyByte Cfg.ref (Vector.replicate NREG 1#32) 0 = 0xF6#8 ∧
    keyByte Cfg.ref (Vector.replicate NREG 1#32) 1 = 0x67#8 := by
  decide

/-- Settles O53: the two end bits are clocks 0 and 7 of the packing, and the reference byte is computed. -/
theorem packingTestGivesF6 : Obligations.PackingTestGivesF6 :=
  ⟨fun cfg B => ⟨nextByte_getLsbD cfg B (n := 0) (by decide), nextByte_getLsbD cfg B (n := 7) (by decide)⟩,
    keyByte_ref_ones.1⟩

/-! ### `NEXTB` (R142) -/

theorem zextByte_getLsbD_high (b : Byte) {k : Nat} (hk : 8 ≤ k) : (zextByte b).getLsbD k = false := by
  rw [zextByte, BitVec.getLsbD_setWidth, BitVec.getLsbD_of_ge b k hk, Bool.and_false]

theorem exec_nextb_unkeyed {s : State} (hs : s.fault = none) (h : ∃ i : RegIdx, s.S[i] = none) :
    exec .nextb s = .next (s.raise .unkeyed) := by
  rw [exec, execNextb, State.unlessHalted_running hs, nextb_unkeyed h]

/-- With every Register in state 1 the first combined bit is 1 (R132, R142). -/
theorem keyBit_ones (cfg : Cfg) : keyBit cfg (Vector.replicate NREG 1#32) 0 = true := by
  rw [keyBit, bankAfter, stepAll_ones, combine_allOnes]

/-- The first combined bit weighs 0x80 in the response (R142). -/
theorem zextByte_nextByte_ones_ge (cfg : Cfg) :
    0x80 ≤ (zextByte (nextByte cfg (Vector.replicate NREG 1#32)).2).toNat := by
  refine Nat.ge_two_pow_of_testBit (i := 7) ?_
  rw [BitVec.testBit_toNat, zextByte_getLsbD _ (by decide)]
  exact (nextByte_getLsbD cfg _ (n := 0) (by decide)).trans (keyBit_ones cfg)

/-- Byte `k` of the stream answers the `NEXTB` that comes after `k` others (R141, R142). -/
theorem nextb_iterate_rsp {cfg : Cfg} {s : State} {B : Bank} (hB : ∀ i : RegIdx, s.S[i] = some B[i]) {k : Nat} {b : Byte}
    (hb : keyByte cfg B k = b) : ((nextb cfg)^[k + 1] s).rsp = some ⟨0#4, zextByte b⟩ := by
  induction k generalizing s B with
  | zero => rw [Function.iterate_one, nextb_keyed hB, State.respond_rsp, ← hb, keyByte]
  | succ k ih =>
    rw [Function.iterate_succ_apply, nextb_keyed hB]
    exact ih (State.writeBank_respond_get s _ _) hb

/-- The reference core keyed with `"abc"` (R142): its bank 0, 8 and 16 clocks on, and from then on 24. -/
def abcBank : Nat → Bank
  | 0 => #v[0x9E1B3945#32, 0x002C40FC#32, 0xA275CA37#32, 0x44BD546E#32, 0xE6C6DFA1#32, 0x890E59D8#32, 0x2B57E313#32,
      0xCD9F6D4A#32, 0x6FA0F48D#32, 0x11E87EC4#32, 0xB031F87F#32]
  | 1 => #v[0x9F9E1B62#32, 0xCC002C16#32, 0x8BA275B6#32, 0x7644BD2D#32, 0x2FE6C6FC#32, 0xB8890ED1#32, 0x772B570F#32,
      0xDACD9EC4#32, 0x236FA0B9#32, 0xF411E9E7#32, 0xF7B03058#32]
  | 2 => #v[0x869F9E4F#32, 0x2ECC0030#32, 0xAE8BA214#32, 0xA9764403#32, 0x142FE6D4#32, 0xB5B88989#32, 0x3B772B20#32,
      0x64DACD59#32, 0xAF236EDB#32, 0x43F41149#32, 0x18F7B00B#32]
  | _ => #v[0x21869F8B#32, 0xF02ECC47#32, 0xC4AE8BE6#32, 0x9FA976CA#32, 0x8C142F51#32, 0x8DB5B83C#32, 0xA03B766C#32,
      0xF164DB36#32, 0x81AF2241#32, 0x2543F44A#32, 0x6318F75A#32]

theorem seedBank_abc : seedBank Cfg.ref (accOf Cfg.ref [0x61#8, 0x62#8, 0x63#8]) = abcBank 0 := by
  decide

/-- One byte at a time, so that no evaluation runs through more than eight clocks. -/
theorem nextByte_abcBank :
    nextByte Cfg.ref (abcBank 0) = (abcBank 1, 0xCE#8) ∧ nextByte Cfg.ref (abcBank 1) = (abcBank 2, 0xA3#8) ∧
    nextByte Cfg.ref (abcBank 2) = (abcBank 3, 0xF1#8) ∧ (nextByte Cfg.ref (abcBank 3)).2 = 0x55#8 :=
  ⟨by decide, by decide, by decide, by decide⟩

theorem keyByte_abcBank :
    keyByte Cfg.ref (abcBank 0) 0 = 0xCE#8 ∧ keyByte Cfg.ref (abcBank 0) 1 = 0xA3#8 ∧
    keyByte Cfg.ref (abcBank 0) 2 = 0xF1#8 ∧ keyByte Cfg.ref (abcBank 0) 3 = 0x55#8 := by
  obtain ⟨hfirst, hsecond, hthird, hfourth⟩ := nextByte_abcBank
  simp only [keyByte, hfirst, hsecond, hthird, hfourth, and_self]

/-- Settles O31: a keyed `NEXTB` writes the bank eight clocks on and answers the next byte; in a row they answer the keystream. -/
theorem nextbProducesOneByte : Obligations.NextbProducesOneByte := by
  refine ⟨by decide, fun s hs h => exec_nextb_unkeyed hs h, fun s B hs hB => ?_, fun s hs hones => ?_, ?_, ?_⟩
  · refine ⟨_, zextByte (nextByte coreCfg B).2, exec_nextb_keyed hs hB, s.writeBank_get _, State.writeBank_V_full s _, rfl,
      fun n hn => ?_, fun k hk => zextByte_getLsbD_high _ hk, rfl, rfl, hs, rfl⟩
    rw [zextByte_getLsbD _ (by omega), nextByte_getLsbD coreCfg B hn]
  · have hB : ∀ i : RegIdx, s.S[i] = some (Vector.replicate NREG 1#32 : Bank)[i] := fun i => by
      simpa using hones i
    exact ⟨_, _, exec_nextb_keyed hs hB, rfl, zextByte_nextByte_ones_ge coreCfg⟩
  · have hB := State.reset.writeBank_get (Vector.replicate NREG 1#32)
    obtain ⟨hfirst, hsecond⟩ := keyByte_ref_ones
    exact ⟨nextb_iterate_rsp hB hfirst, nextb_iterate_rsp hB hsecond⟩
  · rw [seedBank_abc]
    have hB := State.reset.writeBank_get (abcBank 0)
    obtain ⟨hfirst, hsecond, hthird, hfourth⟩ := keyByte_abcBank
    exact ⟨nextb_iterate_rsp hB hfirst, nextb_iterate_rsp hB hsecond, nextb_iterate_rsp hB hthird,
      nextb_iterate_rsp hB hfourth⟩

end Sys2Proof.Machine
end

section
/-! SUPPORT. The statements of 45_xor_stage.md (rules R150 to R152): `XORB`, and the streams that `XORS` transforms. -/

namespace Sys2Proof.Machine

/-! ### `XORB` (R150) -/

section
variable {s : State} (hs : s.fault = none) (b : Byte)
include hs

theorem exec_xorb_unkeyed (h : ∃ i : RegIdx, s.S[i] = none) : exec (.xorb b) s = .next (s.raise .unkeyed) := by
  rw [exec, execXorb, State.unlessHalted_running hs, xorb_unkeyed h]

theorem exec_xorb_keyed {B : Bank} (hB : ∀ i : RegIdx, s.S[i] = some B[i]) :
    exec (.xorb b) s =
      .next ((s.writeBank (bankAfter coreCfg B 8)).respond (zextByte (b ^^^ (nextByte coreCfg B).2))) := by
  rw [exec, execXorb, State.unlessHalted_running hs, xorb_keyed hB, nextByte_bank]

end

theorem xorb_zero (cfg : Cfg) : xorb cfg 0#8 = nextb cfg := by
  funext s
  rcases s.unkeyed_or_keyed with h | ⟨B, hB⟩
  · rw [xorb_unkeyed h, nextb_unkeyed h]
  · rw [xorb_keyed hB, nextb_keyed hB, BitVec.zero_xor]

/-- `XORB 0` is `NEXTB` on a halted core too (R150). -/
theorem exec_xorb_zero (s : State) : exec (.xorb 0#8) s = exec .nextb s := by
  rw [exec, exec, execXorb, execNextb, xorb_zero]

/-- Settles O32: a keyed `XORB` goes on like `NEXTB` and adds the data byte to the answer, and adding 0 changes nothing. -/
theorem xorbTransformsOneByte : Obligations.XorbTransformsOneByte := by
  refine ⟨fun b => encodedCommandDecodesToItself (.xorb b) rfl, fun s b hs h => exec_xorb_unkeyed hs b h,
    fun s B b hs hB => ?_, exec_xorb_zero, by decide⟩
  exact ⟨_, exec_xorb_keyed hs b hB, s.writeBank_get _, State.writeBank_V_full s _, rfl, rfl, rfl, hs, rfl⟩

/-! ### Streams (R43, R151, R152) -/

/-- The bytes `m` transformed by the keystream that starts at the bank `B`, byte `k` by keystream byte `k` (R43, R152). -/
def xorStream (cfg : Cfg) (B : Bank) (m : List Byte) : List Byte := m.mapIdx fun k b => b ^^^ keyByte cfg B k

@[simp] theorem xorStream_length (cfg : Cfg) (B : Bank) (m : List Byte) : (xorStream cfg B m).length = m.length :=
  List.length_mapIdx

theorem xorStream_getElem? (cfg : Cfg) (B : Bank) (m : List Byte) (k : Nat) :
    (xorStream cfg B m)[k]? = m[k]?.map fun b => b ^^^ keyByte cfg B k :=
  List.getElem?_mapIdx

/-- The first byte takes keystream byte 0, and the others go on from the bank it leaves (R141). -/
theorem xorStream_cons (cfg : Cfg) (B : Bank) (b : Byte) (m : List Byte) :
    xorStream cfg B (b :: m) = (b ^^^ (nextByte cfg B).2) :: xorStream cfg (bankAfter cfg B 8) m := by
  rw [← nextByte_bank]
  exact List.mapIdx_cons

/-- One keystream added twice is gone (R151). -/
theorem xorStream_xorStream (cfg : Cfg) (B : Bank) (m : List Byte) : xorStream cfg B (xorStream cfg B m) = m := by
  refine List.ext_getElem? fun k => ?_
  rw [xorStream_getElem?, xorStream_getElem?, Option.map_map]
  simp [Function.comp_def]

/-- `XORS m` on a keyed running core: each byte is answered transformed and takes the bank eight clocks on (R65, R152). -/
theorem runCommands_xors {s : State} {B : Bank} (m : List Byte) (hs : s.fault = none)
    (hB : ∀ i : RegIdx, s.S[i] = some B[i]) :
    ∃ t, runCommands (Pseudo.xors m).expand s =
        some (t, (xorStream coreCfg B m).map fun c => ⟨0#4, c.setWidth 32⟩) ∧
      ∀ i : RegIdx, t.S[i] = some (bankAfter coreCfg B (8 * m.length))[i] := by
  induction m generalizing s B with
  | nil => exact ⟨s, rfl, hB⟩
  | cons b m ih =>
    obtain ⟨t, hrun, hbank⟩ := ih (s := (s.writeBank _).respond _) hs (s.writeBank_respond_get _ _)
    refine ⟨t, ?_, ?_⟩
    · rw [xorStream_cons]
      exact runCommands_cons rfl (exec_xorb_keyed hs b hB) rfl hrun
    · rwa [List.length_cons, Nat.mul_succ, Nat.add_comm, bankAfter_add]

/-- Settles O55: the run is `runCommands_xors`, and the run of no command ends where it starts. -/
theorem streamLengthIsPreserved : Obligations.StreamLengthIsPreserved := by
  intro s B m hs hB
  obtain ⟨t, hrun, hbank⟩ := runCommands_xors m hs hB
  refine ⟨t, _, hrun, by simp, hbank, fun k b hb => ?_, ?_⟩
  · rw [List.getElem?_map, xorStream_getElem?, hb]
    rfl
  · rintro rfl
    cases hrun
    rfl

/-- `KEY p` and then `XORS m` on a running core that accepts `p`, whatever it held before: the stream starts at the bank of `p`
(R103, R203). -/
theorem runCommands_key_xors {s : State} (hs : s.fault = none) {p : List Byte}
    (hp : p ≠ [] ∨ coreCfg.rejectEmpty = false) (m : List Byte) :
    ∃ t, runCommands ((Pseudo.key p).expand ++ (Pseudo.xors m).expand) s =
        some (t, List.replicate (p.length + 2) ⟨0#4, 0#32⟩ ++
          (xorStream coreCfg (seedBank coreCfg (accOf coreCfg p)) m).map fun c => ⟨0#4, c.setWidth 32⟩) ∧
      t.S = Vector.ofFn fun i => some (bankAfter coreCfg (seedBank coreCfg (accOf coreCfg p)) (8 * m.length))[i] := by
  have hB := fun i => (s.seeded_S (accOf coreCfg p) i).trans (congrArg some (seedBank_get coreCfg _ i).symm)
  obtain ⟨t, hrun, hbank⟩ := runCommands_xors m (s := s.seeded _) hs hB
  refine ⟨t, runCommands_append (runCommands_key hs hp) hrun, Vector.ext fun k hk => ?_⟩
  rw [Vector.getElem_ofFn]
  exact hbank ⟨k, hk⟩

/-- Settles O54: both streams start at the bank of `p`, so the second adds the keystream of the first again and makes as many
clocks. -/
theorem transformTwiceIsTheIdentity : Obligations.TransformTwiceIsTheIdentity := by
  intro s s' p m hs hs' hp
  obtain ⟨t, hrun, hS⟩ := runCommands_key_xors hs hp m
  obtain ⟨u, hrun', hS'⟩ := runCommands_key_xors hs' hp
    (xorStream coreCfg (seedBank coreCfg (accOf coreCfg p)) m)
  rw [xorStream_xorStream] at hrun'
  rw [xorStream_length] at hS'
  exact ⟨t, u, _, hrun, xorStream_length _ _ _, hrun', hS.trans hS'.symm⟩

end Sys2Proof.Machine
end

section
/-! SUPPORT. The statements of 46_system.md (rule R160): `RST`, its one word, and the other words with its opcode. -/

namespace Sys2Proof.Machine

/-- `RST` has the one word: a legal word is the word of its command (R58, R60). -/
theorem decode_eq_rst_iff (w : CmdWord) : decode w = .ok .rst ↔ w = 0x1000000000#40 := by
  constructor
  · exact fun h => (legalWordIsTheWordOfItsCommand w .rst h).1.symm
  · rintro rfl
    exact encodedCommandDecodesToItself .rst rfl

theorem namedCommand_eq_rst {w : CmdWord} (hop : opOf w = 0x1#4) : namedCommand w = some .rst := by
  rw [namedCommand, hop]
  rfl

/-- The opcode of `RST` names no other command, so a word with it that is not the word of `RST` does not decode (R160). -/
theorem decode_error_of_rst_opcode {w : CmdWord} (hop : opOf w = 0x1#4) (hw : w ≠ 0x1000000000#40) :
    ∃ e, decode w = .error e := by
  refine (decode_error_iff w).2 fun i hname hformat => hw ?_
  obtain rfl : Instr.rst = i := Option.some.inj ((namedCommand_eq_rst hop).symm.trans hname)
  exact (decode_eq_rst_iff w).1 (decode_ok_iff.2 ⟨hname, hformat⟩)

/-- A word that does not decode is suppressed on a halted core (R61, R173, R175). -/
theorem execWord_error_halted {w : CmdWord} {e : DecodeError} {s : State} {f : Fault} (h : decode w = .error e)
    (hs : s.fault = some f) : execWord w s = .next { s with rsp := some ⟨f.code, 0#32⟩ } := by
  rw [execWord_error h, issueIllegal, State.unlessHalted_halted hs]

/-- Settles O24: `RST` restarts the core whatever its state, it has the one word, and a word that only has its opcode does not
decode. -/
theorem rstReturnsToTheResetState : Obligations.RstReturnsToTheResetState := by
  refine ⟨fun s => rfl, decode_eq_rst_iff, fun w s hop hw => ?_⟩
  obtain ⟨e, he⟩ := decode_error_of_rst_opcode hop hw
  split
  case h_1 hrunning => exact execWord_error_running he hrunning
  case h_2 f hhalted => exact execWord_error_halted he hhalted

end Sys2Proof.Machine
end

section
/-! SUPPORT. The statements of 60_exceptions.md (rules R171 to R178): the order of checks on a command word, the faults of R172's
table, and the halted state. -/

namespace Sys2Proof.Machine

/-! ### The codes (R30, R171) -/

theorem Fault.code_ne_zero (f : Fault) : f.code ≠ 0#4 := by
  cases f <;> decide

theorem Fault.code_le_five (f : Fault) : f.code.toNat ≤ 5 := by
  cases f <;> decide

@[simp] theorem State.FAULT_of_running {s : State} (h : s.fault = none) : s.FAULT = 0#4 := by
  simp only [State.FAULT, h]

@[simp] theorem State.FAULT_of_halted {s : State} {f : Fault} (h : s.fault = some f) : s.FAULT = f.code := by
  simp only [State.FAULT, h]

theorem State.FAULT_eq_zero_iff (s : State) : s.FAULT = 0#4 ↔ s.fault = none := by
  cases h : s.fault with
  | none => simp [h]
  | some f => simp [h, f.code_ne_zero]

theorem State.FAULT_le_five (s : State) : s.FAULT.toNat ≤ 5 := by
  cases h : s.fault with
  | none => simp [h]
  | some f => simpa [h] using f.code_le_five

/-- Settles O15: `FAULT` holds a code of one of the five causes, or 0. -/
theorem faultCodesAreOneToFive : Obligations.FaultCodesAreOneToFive :=
  ⟨rfl, rfl, rfl, rfl, rfl, fun f => by cases f <;> simp, State.FAULT_le_five, State.FAULT_eq_zero_iff⟩

/-! ### The halted core (R173, R175) -/

/-- `RST` is the only command without the halted check (R173). -/
theorem exec_of_ne_rst {i : Instr} (hi : i ≠ .rst) :
    ∃ perform : State → State, ∀ s, exec i s = .next (s.unlessHalted perform) := by
  cases i with
  | rst => exact absurd rfl hi
  | _ => exact ⟨_, fun _ => rfl⟩

theorem execWord_rst (s : State) : execWord 0x1000000000#40 s = .next (s.restart.respond 0#32) := rfl

/-- A halted core only answers, whether the word decodes or not, unless it is the word of `RST` (R173, R175). -/
theorem execWord_halted {w : CmdWord} {s : State} {f : Fault} (hw : w ≠ 0x1000000000#40) (hs : s.fault = some f) :
    execWord w s = .next { s with rsp := some ⟨f.code, 0#32⟩ } := by
  cases hd : decode w with
  | error e => exact execWord_error_halted hd hs
  | ok i =>
    obtain ⟨perform, hexec⟩ := exec_of_ne_rst (i := i) fun hi => hw ((decode_eq_rst_iff w).1 (hi ▸ hd))
    rw [execWord_ok hd, hexec, State.unlessHalted_halted hs]

/-- Settles O13: a core whose `FAULT` is not 0 holds a fault, and then every other word is suppressed. -/
theorem haltedCoreSuppressesAllButRst : Obligations.HaltedCoreSuppressesAllButRst := by
  intro w s hFAULT hw
  obtain ⟨f, hf⟩ := Option.ne_none_iff_exists'.1 (mt s.FAULT_eq_zero_iff.2 hFAULT)
  rw [State.FAULT_of_halted hf]
  exact execWord_halted hw hf

/-- After a restart the core holds nothing (R36, R176, R201). -/
theorem State.restart_empty (s : State) :
    s.restart.fault = none ∧ s.restart.V = 0#11 ∧ s.restart.ACCV = false ∧ s.restart.ACCN = false :=
  ⟨rfl, (by decide : State.reset.V = 0#11), rfl, rfl⟩

/-- Settles O14: of the host's moves, only the reset input and the word of `RST` restart a halted core. -/
theorem onlyRstOrResetLeavesTheHaltedState : Obligations.OnlyRstOrResetLeavesTheHaltedState := by
  intro s t f hs h
  rcases step_cases h with ⟨-, rfl⟩ | ⟨later, -, rfl⟩ | ⟨later, hhost, rfl⟩ | ⟨w, later, hhost, hexec⟩
  · exact .inl ⟨hs, rfl, rfl, rfl⟩
  · exact .inl ⟨hs, rfl, rfl, rfl⟩
  · exact .inr ⟨⟨later, .inr hhost⟩, State.restart_empty { s with host := later }⟩
  · by_cases hw : w = 0x1000000000#40
    · subst hw
      obtain rfl := Host.Outcome.next.inj hexec
      exact .inr ⟨⟨later, .inl hhost⟩, State.restart_empty { s with host := later }⟩
    · obtain rfl := Host.Outcome.next.inj ((execWord_halted (s := { s with host := later }) hw hs).symm.trans hexec)
      exact .inl ⟨hs, rfl, rfl, rfl⟩

/-! ### The running core: R172's table -/

/-- The command does on the core what R172's table says: it raises the fault the table has for it, with the effect of R174, or
answers `STATUS = 0` on a core that goes on running. -/
inductive State.ObeysTable (s : State) (i : Instr) : Prop where
  | raised {f : Fault} (effect : exec i s = .next (s.raise f)) (verdict : faultOf coreCfg s i = some f)
  | performed {u : State} {d : Word} (effect : exec i s = .next (u.respond d)) (verdict : faultOf coreCfg s i = none)
      (running : u.fault = none)

theorem faultOf_of_clocks_pos {i : Instr} (hi : 0 < clocks i) (cfg : Cfg) (s : State) :
    faultOf cfg s i = if s.V ≠ 0x7FF#11 then some .unkeyed else none := by
  cases i with
  | clk | nextb | xorb => rfl
  | _ => exact absurd hi (Nat.lt_irrefl 0)

/-- A legal index is the number of a Register (R56, R59). -/
theorem exists_reg_of_legalIdx {idx : Nibble} (h : legalIdx idx = true) : ∃ j : RegIdx, idx = BitVec.ofNat 4 j.val :=
  ⟨legalReg idx h, (ofNat_legalReg idx h).symm⟩

namespace State.ObeysTable

section
variable {s : State} (hs : s.fault = none)
include hs

theorem kabs (b : Byte) : s.ObeysTable (.kabs b) := by
  have hexec := exec_kabs_running hs b
  cases hacc : s.acc with
  | none =>
    rw [kabs_none hacc] at hexec
    exact .raised hexec (by simp [faultOf, State.ACCV, hacc])
  | some a =>
    rw [kabs_some hacc] at hexec
    exact .performed hexec (by simp [faultOf, State.ACCV, hacc]) hs

theorem kseed : s.ObeysTable .kseed := by
  have hexec := exec_kseed_running hs
  cases hacc : s.acc with
  | none =>
    rw [kseed_none hacc] at hexec
    exact .raised hexec (by simp [faultOf, State.ACCV, hacc])
  | some a =>
    have hverdict : faultOf coreCfg s .kseed =
        if coreCfg.rejectEmpty = true ∧ s.accn = false then some .emptykey else none := by
      rw [faultOf, State.ACCV, hacc]
      rfl
    by_cases hrefused : coreCfg.rejectEmpty = true ∧ s.accn = false
    · obtain ⟨hreject, hempty⟩ := hrefused
      rw [kseed_empty hacc hreject hempty] at hexec
      exact .raised hexec (hverdict.trans (if_pos ⟨hreject, hempty⟩))
    · rw [kseed_some hacc (by simpa [or_iff_not_imp_left] using hrefused)] at hexec
      exact .performed hexec (hverdict.trans (if_neg hrefused)) hs

theorem lds (j : RegIdx) (v : Word) : s.ObeysTable (.lds (BitVec.ofNat 4 j.val) v) := by
  by_cases hv : v = 0#32
  · subst hv
    exact .raised (exec_lds_zero hs j) rfl
  · exact .performed (exec_lds_nonzero hs j hv) (if_neg hv) hs

theorem rds (j : RegIdx) : s.ObeysTable (.rds (BitVec.ofNat 4 j.val)) := by
  have hverdict : faultOf coreCfg s (.rds (BitVec.ofNat 4 j.val)) =
      if s.S[j].isSome = false then some .unkeyed else none := by
    rw [faultOf, s.V_getLsbD_regIdx (regIdx_ofNat j)]
  cases hS : s.S[j] with
  | none => exact .raised (exec_rds_none hs j hS) (by rw [hverdict, hS]; rfl)
  | some v => exact .performed (exec_rds_some hs j hS) (by rw [hverdict, hS]; rfl) hs

theorem of_clocks_pos {i : Instr} (hi : 0 < clocks i) : s.ObeysTable i := by
  have hverdict := faultOf_of_clocks_pos hi coreCfg s
  rcases s.unkeyed_or_keyed with hnone | ⟨B, hB⟩
  · obtain ⟨dout, hexec⟩ := exec_of_clocks_pos hi
    have heffect : exec i s = .next (s.raise .unkeyed) := by
      rw [hexec, State.unlessHalted_running hs, State.withBank_unkeyed hnone]
    exact .raised heffect (hverdict.trans (if_pos (s.V_ne_full_iff.2 hnone)))
  · obtain ⟨d, heffect⟩ := exec_clocks_keyed hs hi hB
    have hfull : s.V = 0x7FF#11 := s.V_eq_full_iff.2 fun j => by rw [hB j]; rfl
    exact .performed heffect (hverdict.trans (if_neg (not_not.2 hfull))) hs

/-- Every command that a word can decode to keeps to the table on a running core (R172, R174). -/
theorem of_wf {i : Instr} (hi : i.wf = true) : s.ObeysTable i := by
  cases i with
  | rst => exact .performed (execWord_rst s) rfl rfl
  | kinit => exact .performed (exec_kinit_running hs) rfl hs
  | kabs b => exact kabs hs b
  | kseed => exact kseed hs
  | lds idx v =>
    obtain ⟨j, rfl⟩ := exists_reg_of_legalIdx hi
    exact lds hs j v
  | rds idx =>
    obtain ⟨j, rfl⟩ := exists_reg_of_legalIdx hi
    exact rds hs j
  | comb b => exact .performed (exec_comb_running hs b) rfl hs
  | _ => exact of_clocks_pos hs (by simp [clocks])

theorem of_decode {w : CmdWord} {i : Instr} (h : decode w = .ok i) : s.ObeysTable i :=
  of_wf hs (legalWordIsTheWordOfItsCommand w i h).2

end

end State.ObeysTable

/-- The fault a running core holds after a command is the table's (R172). -/
theorem exec_fault_eq_faultOf {s : State} (hs : s.fault = none) {i : Instr} (hi : i.wf = true) :
    ∃ t, exec i s = .next t ∧ t.fault = faultOf coreCfg s i := by
  cases State.ObeysTable.of_wf hs hi with
  | raised heffect hverdict => exact ⟨_, heffect, hverdict.symm⟩
  | performed heffect hverdict hrunning => exact ⟨_, heffect, hrunning.trans hverdict.symm⟩

/-- Settles O11: each row is `faultOf` at its command. -/
theorem commandFaultsExactlyByTheTable : Obligations.CommandFaultsExactlyByTheTable := by
  refine ⟨fun w e s h hs => ⟨_, execWord_error_running h hs, rfl⟩, fun s hs => ?_⟩
  have hrow (i : Instr) (hi : i.wf = true) := exec_fault_eq_faultOf hs hi
  exact ⟨hrow .rst rfl, hrow .kinit rfl, fun b => hrow (.kabs b) rfl, hrow .kseed rfl,
    fun idx v h => hrow (.lds idx v) ((legalIdx_iff idx).2 h), fun idx h => hrow (.rds idx) ((legalIdx_iff idx).2 h),
    hrow .clk rfl, hrow .nextb rfl, fun b => hrow (.xorb b) rfl, fun b => hrow (.comb b) rfl⟩

/-- A word on a running core raises a fault, or leaves the core running and answers `STATUS = 0` (R173, R174). -/
theorem execWord_running_cases (w : CmdWord) {s : State} (hs : s.fault = none) :
    (∃ f, execWord w s = .next (s.raise f)) ∨ ∃ u d, execWord w s = .next (State.respond u d) ∧ u.fault = none := by
  cases hd : decode w with
  | error e => exact .inl ⟨.illegal, execWord_error_running hd hs⟩
  | ok i =>
    rw [execWord_ok hd]
    cases State.ObeysTable.of_decode hs hd with
    | raised heffect => exact .inl ⟨_, heffect⟩
    | performed heffect _ hrunning => exact .inr ⟨_, _, heffect, hrunning⟩

/-- Settles O12: a running core gets a fault from `raise` alone. -/
theorem raisingAFaultChangesNothingElse : Obligations.RaisingAFaultChangesNothingElse := by
  intro w s t f hs h ht
  rcases execWord_running_cases w hs with ⟨g, hraise⟩ | ⟨u, d, hrespond, hu⟩
  · obtain rfl := Host.Outcome.next.inj (hraise.symm.trans h)
    obtain rfl : g = f := Option.some.inj ht
    exact ⟨rfl, rfl, rfl, rfl, rfl, rfl⟩
  · obtain rfl := Host.Outcome.next.inj (hrespond.symm.trans h)
    exact absurd (hu.symm.trans ht) (Option.some_ne_none f).symm

/-- Settles O10: `RST` and the halted check come before the decoder, and a command that decoded keeps to R172's table. -/
theorem wordIsExecutedInTheOrderOfChecks : Obligations.WordIsExecutedInTheOrderOfChecks := by
  refine ⟨execWord_rst, fun w s f hw hs => execWord_halted hw hs, fun w s e hs h => execWord_error_running h hs,
    fun w s i f hs h hf => ?_, fun w s i hs h hnone => ?_⟩
  · rw [execWord_ok h]
    cases State.ObeysTable.of_decode hs h with
    | raised heffect hverdict =>
      obtain rfl := Option.some.inj (hverdict.symm.trans hf)
      exact heffect
    | performed _ hverdict => exact absurd (hverdict.symm.trans hf) (Option.some_ne_none f).symm
  · rw [execWord_ok h]
    cases State.ObeysTable.of_decode hs h with
    | raised _ hverdict => exact absurd (hverdict.symm.trans hnone) (Option.some_ne_none _)
    | performed heffect _ hrunning => exact ⟨_, _, heffect, heffect, hrunning, rfl⟩

/-! ### Steps (R173, R178) -/

/-- A step in which the host issues a word (R46, R173). -/
theorem step_issue {s : State} {w : CmdWord} {later : List HostMove} (h : s.host = .issue w :: later) :
    step s = execWord w { s with host := later } := by
  simp only [step, State.takeMove, h]

theorem decode_tableWord_of_decodeTableWord {nbits w : Nat} {i : Instr} (h : decodeTableWord nbits w = some i) :
    decode (tableWord nbits w) = .ok i := by
  unfold decodeTableWord at h
  split at h
  · next hd => rw [hd, Option.some.inj h]
  · exact nomatch h

/-- Settles O9: issuing a word is executing it, and a word that decodes is its command. -/
theorem stepRunsTheDecodedCommand : Obligations.StepRunsTheDecodedCommand := by
  constructor
  · intro s w later i hhost h
    rw [step_issue hhost, execWord_ok h]
  · intro s nbits w i h
    exact (step_issue rfl).trans (execWord_ok (decode_tableWord_of_decodeTableWord h) s)

/-- Settles O16: every arm of a step answers a next state. -/
theorem noStepStops : Obligations.NoStepStops := step_next

end Sys2Proof.Machine
end

section
/-! SUPPORT. The statements of 70_reset_and_hazards.md (rules R200 to R204): the state after reset, the invariants of status, keying a
core by `LDS`, and successful runs. -/

namespace Sys2Proof.Machine

/-! ### Reset (R36, R200, R201) -/

/-- A step in which the reset input is asserted (R200; log 9). -/
theorem step_reset {s : State} {later : List HostMove} (h : s.host = .reset :: later) :
    step s = .next { State.reset with host := later } := by
  simp only [step, State.takeMove, h]
  rfl

/-- Settles O21: the reset state, field by field. -/
theorem resetHoldsNothing : Obligations.ResetHoldsNothing :=
  ⟨fun i => by simp [State.reset], by decide, rfl, rfl, rfl, rfl, rfl⟩

/-- Settles O22: the reset input and `RST` restart the core alike. -/
theorem resetInputHasTheEffectOfRst : Obligations.ResetInputHasTheEffectOfRst :=
  fun _ _ h => ⟨step_reset h, _, _, step_reset h, rfl, rfl, rfl, rfl, rfl⟩

/-! ### The invariants of status (R30, R57, R201) -/

theorem State.AccOk.of_acc_eq {s t : State} (hs : s.AccOk) (hacc : t.acc = s.acc) (haccn : t.accn = s.accn) : t.AccOk := by
  unfold State.AccOk State.ACCV State.ACCN
  rw [hacc, haccn]
  exact hs

/-- The invariant speaks of a core without an accumulator only. -/
theorem State.AccOk.of_acc_some {s : State} {a : Word} (h : s.acc = some a) : s.AccOk := by
  intro haccv
  simp [State.ACCV, h] at haccv

theorem State.AccOk.of_accn_false {s : State} (h : s.accn = false) : s.AccOk := fun _ => h

/-- A suppressed command keeps the invariant, so a command need only keep it when performed (R173, R175). -/
theorem State.AccOk.unlessHalted {s : State} {f : State → State} (hs : s.AccOk) (hf : (f s).AccOk) :
    (s.unlessHalted f).AccOk := by
  unfold State.unlessHalted
  split
  · exact hs.of_acc_eq s.suppress_acc s.suppress_accn
  · exact hf

theorem exec_keeps_AccOk {i : Instr} {s t : State} (hs : s.AccOk) (h : exec i s = .next t) : t.AccOk := by
  cases i with
  | rst =>
    cases h
    exact .of_accn_false rfl
  | kinit =>
    cases h
    exact hs.unlessHalted (.of_accn_false rfl)
  | kabs b =>
    cases h
    refine hs.unlessHalted ?_
    rcases kabs_cases b s with he | ⟨a, -, he⟩ <;> rw [he]
    exacts [hs.of_acc_eq rfl rfl, .of_acc_some rfl]
  | kseed =>
    cases h
    refine hs.unlessHalted ?_
    rcases kseed_cases coreCfg s with ⟨f, he⟩ | ⟨a, -, he⟩ <;> rw [he]
    exacts [hs.of_acc_eq rfl rfl, .of_accn_false rfl]
  | lds idx v =>
    obtain ⟨hacc, haccn, -⟩ := exec_lds_frame h
    exact hs.of_acc_eq hacc haccn
  | rds idx =>
    obtain ⟨-, hacc, haccn, -⟩ := exec_rds_frame h
    exact hs.of_acc_eq hacc haccn
  | comb b =>
    obtain ⟨-, hacc, haccn, -⟩ := exec_comb_frame h
    exact hs.of_acc_eq hacc haccn
  | _ =>
    obtain ⟨hacc, haccn, -⟩ := exec_bank_frame (by simp [clocks]) h
    exact hs.of_acc_eq hacc haccn

theorem execWord_keeps_AccOk {w : CmdWord} {s t : State} (hs : s.AccOk) (h : execWord w s = .next t) : t.AccOk := by
  cases hw : decode w with
  | ok i => exact exec_keeps_AccOk hs ((execWord_ok hw s).symm.trans h)
  | error e =>
    obtain rfl := Host.Outcome.next.inj ((execWord_error hw s).symm.trans h)
    exact hs.unlessHalted (hs.of_acc_eq rfl rfl)

/-- An empty port shows nothing that could disagree with `FAULT`. -/
theorem State.PortOk.of_rsp_none {s : State} (h : s.rsp = none) : s.PortOk := by
  intro r hr
  exact absurd (h.symm.trans hr) (Option.some_ne_none r).symm

/-- Settles O19: `RST`, `KINIT`, `KABS` and `KSEED`, the commands that write `ACC` or `ACCN`, keep the first invariant, every answer to
a word meets the second, and the host's other moves leave the core and its port as they are or empty both. -/
theorem statusInvariantIsKept : Obligations.StatusInvariantIsKept := by
  intro s t hacc hport h
  rcases step_cases h with ⟨-, rfl⟩ | ⟨later, -, rfl⟩ | ⟨later, -, rfl⟩ | ⟨w, later, -, hexec⟩
  · exact ⟨hacc, hport⟩
  · exact ⟨hacc, hport⟩
  · exact ⟨.of_accn_false rfl, .of_rsp_none rfl⟩
  · obtain ⟨-, hport', -⟩ := State.Answers.execWord hexec
    exact ⟨execWord_keeps_AccOk (s := { s with host := later }) hacc hexec, hport'⟩

/-- Settles O20: after reset `ACCN` is 0 and the port is empty. -/
theorem statusInvariantHoldsAfterReset : Obligations.StatusInvariantHoldsAfterReset :=
  ⟨.of_accn_false rfl, .of_rsp_none rfl⟩

/-! ### Keying a core by `LDS` (R86, R202 b) -/

/-- The state after one `LDS` of each Register listed, with its seed of `seeds`. -/
def State.loaded (seeds : Bank) (s : State) (order : List RegIdx) : State :=
  order.foldl (fun u i => (u.writeReg i seeds[i]).respond 0#32) s

/-- A Register holds its seed once it is loaded, or if it held that seed before: a later `LDS` writes to other Registers, or the same
value. -/
theorem State.loaded_S {seeds : Bank} {s : State} {order : List RegIdx} {i : RegIdx}
    (h : i ∈ order ∨ s.S[i] = some seeds[i]) : (s.loaded seeds order).S[i] = some seeds[i] := by
  induction order generalizing s with
  | nil => exact h.resolve_left List.not_mem_nil
  | cons j rest ih =>
    refine ih ?_
    by_cases hij : i = j
    · subst hij
      exact .inr (s.writeReg_same i seeds[i])
    · refine h.imp (List.mem_of_ne_of_mem hij) fun hS => ?_
      exact (s.writeReg_other seeds[j] hij).trans hS

theorem State.loaded_frame (seeds : Bank) (s : State) (order : List RegIdx) :
    (s.loaded seeds order).acc = s.acc ∧ (s.loaded seeds order).accn = s.accn ∧
      (s.loaded seeds order).fault = s.fault ∧ (s.loaded seeds order).host = s.host := by
  induction order generalizing s with
  | nil => exact ⟨rfl, rfl, rfl, rfl⟩
  | cons j rest ih => exact ih ((s.writeReg j seeds[j]).respond 0#32)

/-- A row of `LDS` with nonzero seeds on a running core. -/
theorem runCommands_lds {seeds : Bank} (hseeds : ∀ i : RegIdx, seeds[i] ≠ 0#32) (order : List RegIdx) {s : State}
    (hs : s.fault = none) :
    runCommands (order.map fun i => .lds (BitVec.ofNat 4 i.val) seeds[i]) s =
      some (s.loaded seeds order, List.replicate order.length ⟨0#4, 0#32⟩) := by
  induction order generalizing s with
  | nil => rfl
  | cons j rest ih =>
    exact runCommands_cons (i := .lds _ _) (legalIdx_ofNat j) (exec_lds_nonzero hs j (hseeds j)) rfl
      (ih (s := (s.writeReg j seeds[j]).respond 0#32) hs)

/-- Settles O47: an order of all eleven indexes loads every Register. -/
theorem elevenLdsKeyTheCore : Obligations.ElevenLdsKeyTheCore := by
  intro s seeds order hs hperm hseeds
  obtain ⟨hacc, haccn, hfault, hhost⟩ := s.loaded_frame seeds order
  have hlength : order.length = 11 := hperm.length_eq.trans List.length_finRange
  have hS (i : RegIdx) : (s.loaded seeds order).S[i] = some seeds[i] :=
    State.loaded_S (.inl (hperm.mem_iff.2 (List.mem_finRange i)))
  have hV : (s.loaded seeds order).V = 0x7FF#11 := (State.V_eq_full_iff _).2 fun i => by rw [hS i]; rfl
  exact ⟨_, _, runCommands_lds hseeds order hs, by rw [hlength], hS, hV, hacc, haccn, hfault.trans hs, hhost⟩

/-! ### Successful runs (R204) -/

/-- A run of one word or more, taken apart: the first word is answered and the rest goes on from there (R46). -/
theorem run_cons_inv {w : CmdWord} {ws : List CmdWord} {s u : State} {rs : List Response}
    (h : run (w :: ws) s = some (u, rs)) :
    ∃ t r qs, execWord w s = .next t ∧ r.status = t.FAULT ∧ run ws t = some (u, qs) ∧ rs = r :: qs := by
  obtain ⟨t, r, hexec, hr, -, hstatus, -⟩ := everyWordIsAnswered w s
  obtain ⟨v, qs, hrest⟩ := run_next ws t
  have hanswered : answered (execWord w s) = some (t, r) := by rw [hexec, answered, hr, Option.map_some]
  cases h.symm.trans (run_cons hanswered hrest)
  exact ⟨t, r, qs, hexec, hstatus, hrest, rfl⟩

/-- Without `RST` a run keeps the first fault to its end (R30, R175). -/
theorem run_keeps_fault {ws : List CmdWord} (hws : ∀ w ∈ ws, w ≠ rstWord) {s t : State} {rs : List Response} {f : Fault}
    (hs : s.fault = some f) (h : run ws s = some (t, rs)) : t.fault = some f := by
  induction ws generalizing s rs with
  | nil =>
    cases h
    exact hs
  | cons w ws ih =>
    obtain ⟨hw, hws'⟩ := List.forall_mem_cons.1 hws
    obtain ⟨u, r, qs, hexec, -, hrest, -⟩ := run_cons_inv h
    obtain rfl := Host.Outcome.next.inj ((execWord_halted hw hs).symm.trans hexec)
    exact ih hws' (s := { s with rsp := some ⟨f.code, 0#32⟩ }) hs hrest

/-- Settles O57, by induction on the words: a fault after any of them would still be held at the end. -/
theorem successfulRunHadNoFault : Obligations.SuccessfulRunHadNoFault := by
  intro ws s t rs hws h hsuccess
  induction ws generalizing s rs with
  | nil =>
    cases h
    exact fun _ hr => absurd hr List.not_mem_nil
  | cons w ws ih =>
    obtain ⟨-, hws'⟩ := List.forall_mem_cons.1 hws
    obtain ⟨u, r, qs, -, hstatus, hrest, rfl⟩ := run_cons_inv h
    have hrunning : u.fault = none := by
      refine Option.eq_none_iff_forall_ne_some.2 fun f hf => ?_
      have hlast : t.fault = some f := run_keeps_fault hws' hf hrest
      exact absurd ((t.FAULT_eq_zero_iff.1 hsuccess).symm.trans hlast) (Option.some_ne_none f).symm
    exact List.forall_mem_cons.2 ⟨hstatus.trans (u.FAULT_eq_zero_iff.2 hrunning), ih u qs hws' hrest⟩

end Sys2Proof.Machine
end
